-- ==== Sys2Proof/Word.lean ====
section
/-! DEFINITION. The widths the spec gives its values (00_scope.md R8, R9, R10): all are unsigned and
all arithmetic on them wraps, which is what `BitVec` arithmetic does. -/

namespace Sys2Proof

/-- A register, a memory byte, a timer or an 8-bit immediate (R8 `REG_WIDTH`). -/
abbrev Byte := BitVec 8

/-- A 16-bit address: the program counter, the index pointer, a stack entry (R8). -/
abbrev Addr := BitVec 16

/-- An instruction word, bit 15 the most significant (R9, R100). -/
abbrev Word := BitVec 16

/-- A 4-bit field of an instruction word (R101). -/
abbrev Nibble := BitVec 4

/-- The 12-bit address field `NNN` (R101). -/
abbrev Imm12 := BitVec 12

/-- The index of one of the sixteen general registers `V0` to `VF` (R30). -/
abbrev Reg := Fin 16

end Sys2Proof
end

