-- ==== Sys2Proof/Config.lean ====
section
/-! DEFINITION. What is fixed for the machine: the implementation parameters of 00_scope.md R8, and the
two free values of the model (92_eei_decisions.md D14 `RNG` and D15 `INIT_MEM`). -/

namespace Sys2Proof.Config

/-- `MEM_SIZE`: the number of addressable bytes (R8, R70). -/
def memSize : Nat := 4096

/-- `PROGRAM_BASE`: where `load_program` copies a program (R8, R345). -/
def programBase : Nat := 0x200

/-- `RESET_PC`: the address of the first instruction after reset (R8, R341). -/
def resetPc : Addr := 0x200#16

/-- `MAX_PROGRAM_LEN`: the longest program image, in bytes (R8, R345). -/
def maxProgramLen : Nat := memSize - programBase

/-- `GLYPH_BASE`: the address of the glyph for digit 0 (R8, R79). -/
def glyphBase : Nat := 0x050

/-- `FB_WIDTH`: the number of framebuffer columns (R8, R42). -/
def fbWidth : Nat := 64

/-- `FB_HEIGHT`: the number of framebuffer rows (R8, R42). -/
def fbHeight : Nat := 32

/-- FREE VALUE `RNG` (R46, R176, D14): the byte drawn by the `n`th `CXNN`.
Nothing constrains it, and no law relates two draws (log entry 2, safe). -/
opaque rng : Nat → Byte

/-- FREE VALUE `INIT_MEM` (R81, R343, D15): the byte an address outside the glyph table holds until
something writes it.  Nothing constrains it (log entry 1, safe). -/
opaque initMem : Nat → Byte

end Sys2Proof.Config
end

