-- ==== Sys2Proof/Syntax.lean ====
section
/-! DEFINITION. The instructions: one constructor per row of spec/opcode_table.json (30_encoding.md
R104), the result of decoding a word, and the lines of an assembler text (R115). -/

namespace Sys2Proof

/-- The 34 instructions of 30_encoding.md R104, in the table's order. -/
inductive Instr where
  /-- `00E0` CLS: clear screen (R230). -/
  | cls
  /-- `00EE` RET: return from subroutine (R130). -/
  | ret
  /-- `1NNN` JP NNN: jump (R131). -/
  | jp (nnn : Imm12)
  /-- `2NNN` CALL NNN: call subroutine (R132). -/
  | call (nnn : Imm12)
  /-- `3XNN` SE VX, NN: skip if register equals immediate (R133). -/
  | seImm (x : Reg) (nn : Byte)
  /-- `4XNN` SNE VX, NN: skip if register differs from immediate (R134). -/
  | sneImm (x : Reg) (nn : Byte)
  /-- `5XY0` SE VX, VY: skip if registers are equal (R135). -/
  | seReg (x y : Reg)
  /-- `6XNN` LD VX, NN: load immediate (R162). -/
  | ldImm (x : Reg) (nn : Byte)
  /-- `7XNN` ADD VX, NN: add immediate (R163). -/
  | addImm (x : Reg) (nn : Byte)
  /-- `8XY0` LD VX, VY: assign (R164). -/
  | ldReg (x y : Reg)
  /-- `8XY1` OR VX, VY (R165). -/
  | orReg (x y : Reg)
  /-- `8XY2` AND VX, VY (R166). -/
  | andReg (x y : Reg)
  /-- `8XY3` XOR VX, VY (R167). -/
  | xorReg (x y : Reg)
  /-- `8XY4` ADD VX, VY: add with carry (R170). -/
  | addReg (x y : Reg)
  /-- `8XY5` SUB VX, VY: subtract with borrow (R171). -/
  | sub (x y : Reg)
  /-- `8XY6` SHR VX: shift right by one; `y` is encoded and ignored (R172). -/
  | shr (x y : Reg)
  /-- `8XY7` SUBN VX, VY: reverse subtract (R173). -/
  | subn (x y : Reg)
  /-- `8XYE` SHL VX: shift left by one; `y` is encoded and ignored (R174). -/
  | shl (x y : Reg)
  /-- `9XY0` SNE VX, VY: skip if registers differ (R136). -/
  | sneReg (x y : Reg)
  /-- `ANNN` LD I, NNN: set index (R200). -/
  | ldI (nnn : Imm12)
  /-- `BNNN` JP V0, NNN: jump with offset (R137). -/
  | jpV0 (nnn : Imm12)
  /-- `CXNN` RND VX, NN: random AND immediate (R176). -/
  | rnd (x : Reg) (nn : Byte)
  /-- `DXYN` DRW VX, VY, N: draw sprite of `n` rows (R231). -/
  | drw (x y : Reg) (n : Nibble)
  /-- `EX9E` SKP VX: skip if key down (R250). -/
  | skp (x : Reg)
  /-- `EXA1` SKNP VX: skip if key up (R251). -/
  | sknp (x : Reg)
  /-- `FX07` LD VX, DT: read delay timer (R252). -/
  | ldVxDt (x : Reg)
  /-- `FX0A` LD VX, K: await key (R253). -/
  | ldVxK (x : Reg)
  /-- `FX15` LD DT, VX: set delay timer (R254). -/
  | ldDtVx (x : Reg)
  /-- `FX18` LD ST, VX: set sound timer (R255). -/
  | ldStVx (x : Reg)
  /-- `FX1E` ADD I, VX: add register to index (R201). -/
  | addI (x : Reg)
  /-- `FX29` LD F, VX: index to glyph (R202). -/
  | ldF (x : Reg)
  /-- `FX33` LD B, VX: store BCD (R203). -/
  | ldB (x : Reg)
  /-- `FX55` LD [I], VX: store registers V0..VX (R204). -/
  | ldMemVx (x : Reg)
  /-- `FX65` LD VX, [I]: load registers V0..VX (R205). -/
  | ldVxMem (x : Reg)
deriving DecidableEq, Repr

/-- What a word decodes to: an instruction of R104, or by name a word that selects none, which R106
defines as a true no-op.  There is no third case (R107). -/
inductive Decoded where
  | instr (i : Instr)
  | unrecognized (w : Word)
deriving DecidableEq, Repr

/-- What a byte sequence decodes to, with the bytes left over.  An instruction is always two bytes
(R100), so the one thing a byte sequence can be refused for is that it is shorter. -/
inductive DecodedBytes where
  | decoded (d : Decoded) (rest : List Byte)
  /-- Fewer than two bytes: no instruction word stands there. -/
  | truncated
deriving DecidableEq, Repr

/-- A line of assembler text (R115): an instruction with its operands, one of the two instructions whose
second register may be left out, or a word given as data. -/
inductive AsmLine where
  | instr (i : Instr)
  /-- `SHR VX` with `VY` left out. -/
  | shrShort (x : Reg)
  /-- `SHL VX` with `VY` left out. -/
  | shlShort (x : Reg)
  /-- `DW 0xhhhh`. -/
  | dw (w : Word)
deriving DecidableEq, Repr

end Sys2Proof
end

