-- ==== Sys2Proof/WellFormed.lean ====
section
/-! DEFINITION. Well-formedness.  The operands of `Instr` have exactly the widths of their encoded fields
(30_encoding.md R101), so every term of `Instr` is a well-formed instruction and none needs a check of
its own.  What can be ill-formed is a program: R345 rejects an image longer than 3584 bytes. -/

namespace Sys2Proof

/-- A program image, the bytes given to `load_program`, fits between 0x200 and the end of memory
(70_reset_and_hazards.md R345; R8 `MAX_PROGRAM_LEN`). -/
def imageFits (image : List Byte) : Bool :=
  image.length ≤ Config.maxProgramLen

/-- An assembler text fits: each of its lines is one two-byte word (R100, R115). -/
def asmFits (lines : List AsmLine) : Bool :=
  2 * lines.length ≤ Config.maxProgramLen

end Sys2Proof
end

