-- ==== Sys2Proof/Decode.lean ====
section
/-! DEFINITION. From words to instructions and back (30_encoding.md R100 to R109, R115). -/

namespace Sys2Proof

/-! ## Fields of an instruction word (R101) -/

/-- `c` = w[15:12], the primary opcode class. -/
def opClass (w : Word) : Nibble := w.extractLsb' 12 4

/-- `X` = w[11:8], a register index. -/
def fieldX (w : Word) : Reg := (w.extractLsb' 8 4).toFin

/-- `Y` = w[7:4], a register index. -/
def fieldY (w : Word) : Reg := (w.extractLsb' 4 4).toFin

/-- `N` = w[3:0], a 4-bit immediate; also the sub-function of classes 5, 8 and 9. -/
def fieldN (w : Word) : Nibble := w.extractLsb' 0 4

/-- `NN` = w[7:0], an 8-bit immediate; also the sub-function of classes E and F. -/
def fieldNN (w : Word) : Byte := w.extractLsb' 0 8

/-- `NNN` = w[11:0], a 12-bit address. -/
def fieldNNN (w : Word) : Imm12 := w.extractLsb' 0 12

/-! ## Bytes and words (20_memory.md R73: the high byte comes first) -/

/-- The byte of a word that is stored first. -/
def hiByte (w : Word) : Byte := w.extractLsb' 8 8

/-- The byte of a word that is stored second. -/
def loByte (w : Word) : Byte := w.extractLsb' 0 8

/-- `hi:lo`, the word two consecutive bytes make: `hi * 256 + lo` (R9, R73). -/
def wordOf (hi lo : Byte) : Word := BitVec.ofNat 16 (hi.toNat * 256 + lo.toNat)

/-! ## Decode -/

/-- Class 0 has only `00E0` and `00EE` (R105). -/
def decodeClass0 (w : Word) : Decoded :=
  if w = 0x00E0#16 then .instr .cls
  else if w = 0x00EE#16 then .instr .ret
  else .unrecognized w

/-- Class 8 selects by its low nibble (R104, R105). -/
def decodeClass8 (w : Word) : Decoded :=
  match fieldN w with
  | 0x0#4 => .instr (.ldReg (fieldX w) (fieldY w))
  | 0x1#4 => .instr (.orReg (fieldX w) (fieldY w))
  | 0x2#4 => .instr (.andReg (fieldX w) (fieldY w))
  | 0x3#4 => .instr (.xorReg (fieldX w) (fieldY w))
  | 0x4#4 => .instr (.addReg (fieldX w) (fieldY w))
  | 0x5#4 => .instr (.sub (fieldX w) (fieldY w))
  | 0x6#4 => .instr (.shr (fieldX w) (fieldY w))
  | 0x7#4 => .instr (.subn (fieldX w) (fieldY w))
  | 0xE#4 => .instr (.shl (fieldX w) (fieldY w))
  | _ => .unrecognized w

/-- Class E has only `EX9E` and `EXA1` (R105). -/
def decodeClassE (w : Word) : Decoded :=
  match fieldNN w with
  | 0x9E#8 => .instr (.skp (fieldX w))
  | 0xA1#8 => .instr (.sknp (fieldX w))
  | _ => .unrecognized w

/-- Class F has only the nine patterns of R104 (R105). -/
def decodeClassF (w : Word) : Decoded :=
  match fieldNN w with
  | 0x07#8 => .instr (.ldVxDt (fieldX w))
  | 0x0A#8 => .instr (.ldVxK (fieldX w))
  | 0x15#8 => .instr (.ldDtVx (fieldX w))
  | 0x18#8 => .instr (.ldStVx (fieldX w))
  | 0x1E#8 => .instr (.addI (fieldX w))
  | 0x29#8 => .instr (.ldF (fieldX w))
  | 0x33#8 => .instr (.ldB (fieldX w))
  | 0x55#8 => .instr (.ldMemVx (fieldX w))
  | 0x65#8 => .instr (.ldVxMem (fieldX w))
  | _ => .unrecognized w

/-- Decode matches the full 16-bit word, is total, and reads nothing but the word (R105 to R108). -/
def decode (w : Word) : Decoded :=
  match opClass w with
  | 0x0#4 => decodeClass0 w
  | 0x1#4 => .instr (.jp (fieldNNN w))
  | 0x2#4 => .instr (.call (fieldNNN w))
  | 0x3#4 => .instr (.seImm (fieldX w) (fieldNN w))
  | 0x4#4 => .instr (.sneImm (fieldX w) (fieldNN w))
  | 0x5#4 => if fieldN w = 0#4 then .instr (.seReg (fieldX w) (fieldY w)) else .unrecognized w
  | 0x6#4 => .instr (.ldImm (fieldX w) (fieldNN w))
  | 0x7#4 => .instr (.addImm (fieldX w) (fieldNN w))
  | 0x8#4 => decodeClass8 w
  | 0x9#4 => if fieldN w = 0#4 then .instr (.sneReg (fieldX w) (fieldY w)) else .unrecognized w
  | 0xA#4 => .instr (.ldI (fieldNNN w))
  | 0xB#4 => .instr (.jpV0 (fieldNNN w))
  | 0xC#4 => .instr (.rnd (fieldX w) (fieldNN w))
  | 0xD#4 => .instr (.drw (fieldX w) (fieldY w) (fieldN w))
  | 0xE#4 => decodeClassE w
  | _ => decodeClassF w

/-- Decode the first instruction of a byte sequence (R73, R100). -/
def decodeBytes : List Byte → DecodedBytes
  | hi :: lo :: rest => .decoded (decode (wordOf hi lo)) rest
  | _ => .truncated

/-! ## Encode: the formats of R103, filled in as the patterns of R104

A concatenation of fields is the number R9 says it is: each field times the weight of its lowest bit. -/

/-- Format `FA`, `cNNN`. -/
def packFA (c : Nibble) (nnn : Imm12) : Word :=
  BitVec.ofNat 16 (c.toNat * 4096 + nnn.toNat)

/-- Formats `FXNN`, `cXNN`, and `FX`, `cXss`. -/
def packFXNN (c : Nibble) (x : Reg) (nn : Byte) : Word :=
  BitVec.ofNat 16 (c.toNat * 4096 + x.val * 256 + nn.toNat)

/-- Formats `FXY`, `cXYs`, and `FXYN`, `cXYN`. -/
def packFXYN (c : Nibble) (x y : Reg) (n : Nibble) : Word :=
  BitVec.ofNat 16 (c.toNat * 4096 + x.val * 256 + y.val * 16 + n.toNat)

/-- The word of an instruction (R104). -/
def encode : Instr → Word
  | .cls => 0x00E0#16
  | .ret => 0x00EE#16
  | .jp nnn => packFA 0x1#4 nnn
  | .call nnn => packFA 0x2#4 nnn
  | .seImm x nn => packFXNN 0x3#4 x nn
  | .sneImm x nn => packFXNN 0x4#4 x nn
  | .seReg x y => packFXYN 0x5#4 x y 0x0#4
  | .ldImm x nn => packFXNN 0x6#4 x nn
  | .addImm x nn => packFXNN 0x7#4 x nn
  | .ldReg x y => packFXYN 0x8#4 x y 0x0#4
  | .orReg x y => packFXYN 0x8#4 x y 0x1#4
  | .andReg x y => packFXYN 0x8#4 x y 0x2#4
  | .xorReg x y => packFXYN 0x8#4 x y 0x3#4
  | .addReg x y => packFXYN 0x8#4 x y 0x4#4
  | .sub x y => packFXYN 0x8#4 x y 0x5#4
  | .shr x y => packFXYN 0x8#4 x y 0x6#4
  | .subn x y => packFXYN 0x8#4 x y 0x7#4
  | .shl x y => packFXYN 0x8#4 x y 0xE#4
  | .sneReg x y => packFXYN 0x9#4 x y 0x0#4
  | .ldI nnn => packFA 0xA#4 nnn
  | .jpV0 nnn => packFA 0xB#4 nnn
  | .rnd x nn => packFXNN 0xC#4 x nn
  | .drw x y n => packFXYN 0xD#4 x y n
  | .skp x => packFXNN 0xE#4 x 0x9E#8
  | .sknp x => packFXNN 0xE#4 x 0xA1#8
  | .ldVxDt x => packFXNN 0xF#4 x 0x07#8
  | .ldVxK x => packFXNN 0xF#4 x 0x0A#8
  | .ldDtVx x => packFXNN 0xF#4 x 0x15#8
  | .ldStVx x => packFXNN 0xF#4 x 0x18#8
  | .addI x => packFXNN 0xF#4 x 0x1E#8
  | .ldF x => packFXNN 0xF#4 x 0x29#8
  | .ldB x => packFXNN 0xF#4 x 0x33#8
  | .ldMemVx x => packFXNN 0xF#4 x 0x55#8
  | .ldVxMem x => packFXNN 0xF#4 x 0x65#8

/-- The word of an assembler line; a second register left out is encoded as `Y` = 0 (R115). -/
def encodeLine : AsmLine → Word
  | .instr i => encode i
  | .shrShort x => encode (.shr x 0)
  | .shlShort x => encode (.shl x 0)
  | .dw w => w

/-- The two bytes of a word, in the order they are stored (R73). -/
def wordBytes (w : Word) : List Byte := [hiByte w, loByte w]

/-- The program image of an assembler text: contiguous machine code with no header (R345). -/
def assemble (lines : List AsmLine) : List Byte :=
  lines.flatMap fun l => wordBytes (encodeLine l)

/-! ## The opcode map as masks and patterns (R104 and spec/opcode_table.json) -/

/-- The row of spec/opcode_table.json an instruction belongs to, as (`mask`, `match`): a word belongs to
the row when its bits under `mask` are those of `match`. -/
def opcodeRow : Instr → Word × Word
  | .cls => (0xFFFF#16, 0x00E0#16)
  | .ret => (0xFFFF#16, 0x00EE#16)
  | .jp _ => (0xF000#16, 0x1000#16)
  | .call _ => (0xF000#16, 0x2000#16)
  | .seImm _ _ => (0xF000#16, 0x3000#16)
  | .sneImm _ _ => (0xF000#16, 0x4000#16)
  | .seReg _ _ => (0xF00F#16, 0x5000#16)
  | .ldImm _ _ => (0xF000#16, 0x6000#16)
  | .addImm _ _ => (0xF000#16, 0x7000#16)
  | .ldReg _ _ => (0xF00F#16, 0x8000#16)
  | .orReg _ _ => (0xF00F#16, 0x8001#16)
  | .andReg _ _ => (0xF00F#16, 0x8002#16)
  | .xorReg _ _ => (0xF00F#16, 0x8003#16)
  | .addReg _ _ => (0xF00F#16, 0x8004#16)
  | .sub _ _ => (0xF00F#16, 0x8005#16)
  | .shr _ _ => (0xF00F#16, 0x8006#16)
  | .subn _ _ => (0xF00F#16, 0x8007#16)
  | .shl _ _ => (0xF00F#16, 0x800E#16)
  | .sneReg _ _ => (0xF00F#16, 0x9000#16)
  | .ldI _ => (0xF000#16, 0xA000#16)
  | .jpV0 _ => (0xF000#16, 0xB000#16)
  | .rnd _ _ => (0xF000#16, 0xC000#16)
  | .drw _ _ _ => (0xF000#16, 0xD000#16)
  | .skp _ => (0xF0FF#16, 0xE09E#16)
  | .sknp _ => (0xF0FF#16, 0xE0A1#16)
  | .ldVxDt _ => (0xF0FF#16, 0xF007#16)
  | .ldVxK _ => (0xF0FF#16, 0xF00A#16)
  | .ldDtVx _ => (0xF0FF#16, 0xF015#16)
  | .ldStVx _ => (0xF0FF#16, 0xF018#16)
  | .addI _ => (0xF0FF#16, 0xF01E#16)
  | .ldF _ => (0xF0FF#16, 0xF029#16)
  | .ldB _ => (0xF0FF#16, 0xF033#16)
  | .ldMemVx _ => (0xF0FF#16, 0xF055#16)
  | .ldVxMem _ => (0xF0FF#16, 0xF065#16)

/-! ## The host's view of the opcode table -/

/-- The two stored bytes of an instruction whose `nbits` bits are `w`, every bit above them 0. -/
def tableBytes (nbits w : Nat) : List Byte :=
  wordBytes (BitVec.ofNat 16 (w % 2 ^ nbits))

/-- The instruction the decoder reads from a word of spec/opcode_table.json. -/
def decodeTableWord (nbits w : Nat) : Option Instr :=
  match decodeBytes (tableBytes nbits w) with
  | .decoded (.instr i) _ => some i
  | .decoded (.unrecognized _) _ => none
  | .truncated => none

end Sys2Proof
end

