-- ==== Sys2Proof/Machine/State.lean ====
section
/-! DEFINITION. The state of the machine: every piece of state 10_state.md names, its value after reset
(10_state.md R47), and the reasons a step can stop for. -/

namespace Sys2Proof.Machine

/-- The step-fault causes, codes 1 to 7 of 60_exceptions.md R301, and `noFault` for code 0, "0 when none"
(10_state.md R44).  `FaultCause.code` gives the numbers. -/
inductive FaultCause where
  /-- Code 0: no fault is recorded. -/
  | noFault
  /-- Code 1: `2NNN` with `SP` = 16 (R132). -/
  | stackOverflow
  /-- Code 2: `00EE` with `SP` = 0 (R130). -/
  | stackUnderflow
  /-- Code 3: a fetch of a byte at 4096 or above (R303). -/
  | fetchOutOfRange
  /-- Code 4: `DXYN` or `FX65` reads at 4096 or above (R304). -/
  | readOutOfRange
  /-- Code 5: `FX33` or `FX55` writes at 4096 or above (R304). -/
  | writeOutOfRange
  /-- Code 6: `DXYN` has a set sprite bit outside the grid (R233). -/
  | pixelOutOfRange
  /-- Code 7: `EX9E` or `EXA1` with `V[X]` above 15 (R250, R251). -/
  | keyOutOfRange
deriving DecidableEq, Repr

/-- The status record `FAULT` (10_state.md R44): four fields, written by a fault, cleared by reset. -/
structure FaultRecord where
  /-- 1 bit: set by a step fault, until the next reset. -/
  halted : Bool
  /-- 4 bits, as a name: the fault code, `noFault` when there is none. -/
  cause : FaultCause
  /-- 16 bits: the address the faulting instruction was fetched from. -/
  faultPc : Addr
  /-- 16 bits: the address, key index, pixel or stack pointer R301 lists for the code. -/
  info : Addr
deriving DecidableEq, Repr

/-- `FAULT` when nothing has faulted: all fields 0 (R44, R47). -/
def FaultRecord.clear : FaultRecord :=
  { halted := false, cause := .noFault, faultPc := 0#16, info := 0#16 }

/-- The bytes of memory that something has written, as (address, byte) pairs.  `Memory.wf` in
Machine/Memory.lean is the canonical form, `Memory.unlisted` what reset leaves at the other addresses. -/
abbrev Memory := List Host.Cell

/-- The framebuffer: 32 rows of 64 pixels, each one bit (10_state.md R42). -/
abbrev Framebuffer := Vector (Vector Bool 64) 32

/-- The state of the machine (10_state.md).  The last field is the model's own. -/
structure State where
  /-- `V[0]` to `V[15]`, 8 bits each; `V[15]` is also the flag register VF (R30, R31). -/
  v : Vector Byte 16
  /-- `PC`, 16 bits (R33). -/
  pc : Addr
  /-- `I`, the index pointer, 16 bits (R35). -/
  index : Addr
  /-- `S[0]` to `S[15]`, 16 bits each (R36). -/
  stack : Vector Addr 16
  /-- `SP`, which takes the values 0 to 16 (R37). -/
  sp : Fin 17
  /-- `DT`, the delay timer, 8 bits (R38). -/
  dt : Byte
  /-- `ST`, the sound timer, 8 bits (R39). -/
  st : Byte
  /-- `current_opcode`, 16 bits: the instruction just fetched (R40). -/
  currentOpcode : Word
  /-- `KEY[0]` to `KEY[15]`, true when the key is down; only the host writes it (R41, R320). -/
  keys : Vector Bool 16
  /-- `FB[x, y]` is `fb[y][x]` (R42, R321). -/
  fb : Framebuffer
  /-- The 4096 bytes of memory (R43, R70). -/
  mem : Memory
  /-- `FAULT` (R44). -/
  fault : FaultRecord
  /-- The MODEL'S OWN field: how many bytes `CXNN` has drawn, so that each draw is a new one (R176, D14;
  log entry 2). -/
  draws : Nat
deriving DecidableEq, Repr

/-- Why a step stops without a next state. -/
inductive Fault where
  /-- Raised by `step`, and only while `FAULT.halted` is 1: the latched `Fault(cause, fault_pc, info)` is
  returned again and no state changes (60_exceptions.md R313).  The step that raised the fault answered a
  next state, with the record written.  Safe: no claim reaches past a fault (log entry 5). -/
  | reported (cause : FaultCause) (faultPc info : Addr)
deriving DecidableEq, Repr

/-- Why an instruction has no meaning in this model. -/
inductive Refusal where
  /-- Would be raised by an arm of `exec` for an instruction not modelled yet.  Every instruction is
  modelled, so nothing raises it.  Safe. -/
  | notModelled (mnemonic : String)
deriving DecidableEq, Repr

/-- The machine right after the first `reset()` (10_state.md R47, 70_reset_and_hazards.md R340).
The glyph table and every other byte of memory are as `Memory.unlisted` and `Config.initMem` say.
R47 gives no value for three fields: `currentOpcode` (DESIGN CHOICE, log entry 3), `keys` (DESIGN CHOICE,
log entry 4), and `draws`, which is the model's own (DESIGN CHOICE, log entry 2). -/
def State.reset : State where
  v := Vector.replicate 16 0#8
  pc := Config.resetPc
  index := 0#16
  stack := Vector.replicate 16 0#16
  sp := 0
  dt := 0#8
  st := 0#8
  currentOpcode := 0#16
  keys := Vector.replicate 16 false
  fb := Vector.replicate 32 (Vector.replicate 64 false)
  mem := []
  fault := FaultRecord.clear
  draws := 0

end Sys2Proof.Machine
end

