-- ==== Sys2Proof/Machine/Memory.lean ====
section
/-! DEFINITION. Memory as a list of written bytes (20_memory.md): what an unlisted address reads as,
the canonical form, and the read and the write of one byte inside the address space. -/

namespace Sys2Proof.Machine

/-- `GLYPH_TABLE`, the sixteen 5-byte glyphs of the hexadecimal digits (93_implementation_defined.md I1,
which marks the bytes as general knowledge; D18). -/
def glyphTable : List Byte :=
  [ 0xF0#8, 0x90#8, 0x90#8, 0x90#8, 0xF0#8,
    0x20#8, 0x60#8, 0x20#8, 0x20#8, 0x70#8,
    0xF0#8, 0x10#8, 0xF0#8, 0x80#8, 0xF0#8,
    0xF0#8, 0x10#8, 0xF0#8, 0x10#8, 0xF0#8 ] ++
  [ 0x90#8, 0x90#8, 0xF0#8, 0x10#8, 0x10#8,
    0xF0#8, 0x80#8, 0xF0#8, 0x10#8, 0xF0#8,
    0xF0#8, 0x80#8, 0xF0#8, 0x90#8, 0xF0#8,
    0xF0#8, 0x10#8, 0x20#8, 0x40#8, 0x40#8 ] ++
  [ 0xF0#8, 0x90#8, 0xF0#8, 0x90#8, 0xF0#8,
    0xF0#8, 0x90#8, 0xF0#8, 0x10#8, 0xF0#8,
    0xF0#8, 0x90#8, 0xF0#8, 0x90#8, 0x90#8,
    0xE0#8, 0x90#8, 0xE0#8, 0x90#8, 0xE0#8 ] ++
  [ 0xF0#8, 0x80#8, 0x80#8, 0x80#8, 0xF0#8,
    0xE0#8, 0x90#8, 0x90#8, 0x90#8, 0xE0#8,
    0xF0#8, 0x80#8, 0xF0#8, 0x80#8, 0xF0#8,
    0xF0#8, 0x80#8, 0xF0#8, 0x80#8, 0x80#8 ]

/-- The byte the spec fixes at an address nothing has written: a byte of the glyph table at 0x050 to 0x09F,
and nothing elsewhere (R81). -/
def Memory.unlisted (a : Nat) : Option Byte :=
  if a < Config.glyphBase then none else glyphTable[a - Config.glyphBase]?

/-- The written byte at an address, if something has written it. -/
def Memory.find : Memory → Nat → Option Byte
  | [], _ => none
  | (b, w) :: m, a => if a = b then some w else Memory.find m a

/-- The byte at an address below 4096 when memory held `init` at power-on (R81, R83): the last byte
written, else the glyph table's, else the power-on byte. -/
def Memory.readWith (init : Nat → Byte) (m : Memory) (a : Nat) : Byte :=
  match m.find a with
  | some w => w
  | none => (Memory.unlisted a).getD (init a)

/-- The byte at an address below 4096.  Where neither a write nor the glyph table fixes it, it is the free
value `Config.initMem` (log entry 1). -/
def Memory.read (m : Memory) (a : Nat) : Byte := m.readWith Config.initMem a

/-- `m` with the byte at `a` listed as `w`, in address order. -/
def Memory.insert : Memory → Nat → Byte → Memory
  | [], a, w => [(a, w)]
  | (b, u) :: m, a, w =>
    if a < b then (a, w) :: (b, u) :: m
    else if a = b then (a, w) :: m
    else (b, u) :: Memory.insert m a w

/-- `m` with nothing listed at `a`. -/
def Memory.erase (m : Memory) (a : Nat) : Memory := m.filter fun c => c.1 ≠ a

/-- Write one byte, keeping the canonical form: writing the byte that an unlisted address is fixed to
removes the entry. -/
def Memory.write (m : Memory) (a : Nat) (w : Byte) : Memory :=
  if Memory.unlisted a = some w then m.erase a else m.insert a w

/-- Write bytes at consecutive addresses from `a` on, the lowest first. -/
def Memory.writeAll (m : Memory) (a : Nat) : List Byte → Memory
  | [] => m
  | w :: ws => Memory.writeAll (m.write a w) (a + 1) ws

/-- The canonical form: addresses strictly rising and inside the address space (R70), and no entry that
the reset contents already give. -/
abbrev Memory.wf (m : Memory) : Prop :=
  m.Pairwise (fun c d => c.1 < d.1) ∧
    ∀ c ∈ m, c.1 < Config.memSize ∧ Memory.unlisted c.1 ≠ some c.2

end Sys2Proof.Machine
end

