-- ==== Sys2Proof/Machine/Ops.lean ====
section
/-! DEFINITION. The named operations over registers, memory, the stack, the framebuffer and the keypad;
raising a fault; fetch; the timer tick. -/

namespace Sys2Proof.Machine

/-! ## The outcome of a part of a step -/

/-- What a stretch of pseudocode leaves: it ran to its end, or it raised a fault (00_scope.md R13) and the
state holds what was done before, with `FAULT` written (60_exceptions.md R311, R312). -/
inductive Attempt where
  | done (s : State)
  | raised (s : State)
deriving DecidableEq, Repr

/-- The state either way. -/
def Attempt.state : Attempt → State
  | .done s => s
  | .raised s => s

/-- Go on with the next statement, unless a fault has ended the step (R13). -/
def Attempt.andThen (r : Attempt) (f : State → Attempt) : Attempt :=
  match r with
  | .done s => f s
  | .raised s => .raised s

/-- The outcome of an instruction.  A raised fault is an effect the spec describes (R311, R312), so it is
a next state too, one whose `FAULT` record says so (log entry 5). -/
def Attempt.outcome (r : Attempt) : Host.Outcome State Fault Refusal := .next r.state

/-- `for a in as: f a`, the pseudocode's loop: in order, ended by the first fault. -/
def forEach {α : Type} (f : α → State → Attempt) : List α → State → Attempt
  | [], s => .done s
  | a :: as, s => (f a s).andThen (forEach f as)

/-! ## Faults -/

/-- The numeric fault code of R301 (D6), 4 bits wide as in R44. -/
def FaultCause.code : FaultCause → BitVec 4
  | .noFault => 0#4
  | .stackOverflow => 1#4
  | .stackUnderflow => 2#4
  | .fetchOutOfRange => 3#4
  | .readOutOfRange => 4#4
  | .writeOutOfRange => 5#4
  | .pixelOutOfRange => 6#4
  | .keyOutOfRange => 7#4

/-- TAKING A FAULT: the `FAULT` record gets the cause, the address the instruction was fetched from and
the info, `halted` becomes 1, and nothing else changes (R311, R312, R315: nothing else is saved and
control goes nowhere).  R315 gives no return from a fault; `State.resetOp` in HostOps.lean is the only way
out (R313). -/
def takeFault (cause : FaultCause) (pc0 info : Addr) (s : State) : State :=
  { s with fault := { halted := true, cause := cause, faultPc := pc0, info := info } }

/-- `pc0`, the address of the instruction being executed: in the execute stage `PC` is `pc0 + 2`, and no
instruction that can fault changes `PC` before it does (R112, R311; log entry 6). -/
def executingPc (s : State) : Addr := s.pc - 2#16

/-- `raise cause(info)` in the execute stage (R13). -/
def raise (cause : FaultCause) (info : Addr) (s : State) : Attempt :=
  .raised (takeFault cause (executingPc s) info s)

/-! ## Registers -/

/-- `V[x]` (R11). -/
def State.reg (s : State) (x : Reg) : Byte := s.v[x]

/-- `V[x] <- b` (R11).  No register is hard-wired (R30). -/
def State.setReg (s : State) (x : Reg) (b : Byte) : State := { s with v := s.v.set x b }

/-- The index of VF, the flag register (R31). -/
def vf : Reg := 15

/-- `PC <- a` (R11). -/
def State.setPc (s : State) (a : Addr) : State := { s with pc := a }

/-- `I <- a` (R11). -/
def State.setIndex (s : State) (a : Addr) : State := { s with index := a }

/-- `DT <- b` (R11). -/
def State.setDt (s : State) (b : Byte) : State := { s with dt := b }

/-- `ST <- b` (R11). -/
def State.setSt (s : State) (b : Byte) : State := { s with st := b }

/-- The state with another framebuffer. -/
def State.setFb (s : State) (fb : Framebuffer) : State := { s with fb := fb }

/-- The state with another memory. -/
def State.setMem (s : State) (m : Memory) : State := { s with mem := m }

/-! ## Memory (R12, R71, R72) -/

/-- The byte at a 16-bit address, or nothing where the address names no byte. -/
def State.byteAt (s : State) (a : Addr) : Option Byte :=
  if a.toNat < Config.memSize then some (s.mem.read a.toNat) else none

/-- `b <- MemRead(a, 1)` and then `k b`; raises `ReadOutOfRange(a)` (R12). -/
def memRead (a : Addr) (k : Byte → State → Attempt) (s : State) : Attempt :=
  match s.byteAt a with
  | some b => k b s
  | none => raise .readOutOfRange a s

/-- `MemWrite(a, 1, b)`; raises `WriteOutOfRange(a)` and then writes nothing (R12). -/
def memWrite (a : Addr) (b : Byte) (s : State) : Attempt :=
  if a.toNat < Config.memSize then .done (s.setMem (s.mem.write a.toNat b))
  else raise .writeOutOfRange a s

/-! ## The return stack (R36, R37) -/

/-- `S[SP] <- a` and `SP <- SP + 1`; raises `StackOverflow(16)` when `SP` = 16, before any write (R132). -/
def push (a : Addr) (s : State) : Attempt :=
  if h : s.sp.val < 16 then
    .done { s with stack := s.stack.set s.sp.val a, sp := ⟨s.sp.val + 1, by omega⟩ }
  else raise .stackOverflow 16#16 s

/-- `SP <- SP - 1` and `PC <- S[SP]`; raises `StackUnderflow(0)` when `SP` = 0, before any write (R130).
The popped entry keeps its value. -/
def popPc (s : State) : Attempt :=
  if h : 0 < s.sp.val then
    .done { s with sp := ⟨s.sp.val - 1, by omega⟩, pc := s.stack[s.sp.val - 1] }
  else raise .stackUnderflow 0#16 s

/-! ## The framebuffer (R42) -/

/-- `FB[x, y]`. -/
def Framebuffer.get (fb : Framebuffer) (x : Fin 64) (y : Fin 32) : Bool := fb[y][x]

/-- `FB[x, y] <- b`. -/
def Framebuffer.put (fb : Framebuffer) (x : Fin 64) (y : Fin 32) (b : Bool) : Framebuffer :=
  fb.set y (fb[y].set x b)

/-- Every pixel off. -/
def Framebuffer.off : Framebuffer := Vector.replicate 32 (Vector.replicate 64 false)

/-! ## The keypad (R41) -/

/-- `KEY[k]`. -/
def State.keyDown (s : State) (k : Reg) : Bool := s.keys[k]

/-- The key indices 0 to 15, rising. -/
def keyIndices : List Reg := List.finRange 16

/-- `KEYSCAN()` as `FX0A` uses it (R13, R253): the lowest index whose key is down. -/
def State.firstKeyDown (s : State) : Option Reg := keyIndices.find? s.keyDown

/-! ## The random source (R46, R176) -/

/-- `RNG()`: a new draw, a free value (log entry 2). -/
def State.drawnByte (s : State) : Byte := Config.rng s.draws

/-- The state after the draw. -/
def State.afterDraw (s : State) : State := { s with draws := s.draws + 1 }

/-! ## The stages of a step around execute (30_encoding.md R110) -/

/-- Fetch and advance (R111, R112, R303): the byte at `PC` first, then the byte at `PC + 1`; a byte
outside memory raises `FetchOutOfRange` with its address, and nothing else is done. -/
def fetch (s : State) : Attempt :=
  match s.byteAt s.pc with
  | none => .raised (takeFault .fetchOutOfRange s.pc s.pc s)
  | some hi =>
    match s.byteAt (s.pc + 1#16) with
    | none => .raised (takeFault .fetchOutOfRange s.pc (s.pc + 1#16) s)
    | some lo => .done { s with currentOpcode := wordOf hi lo, pc := s.pc + 2#16 }

/-- One timer's tick: down by one, stopping at 0 (R318). -/
def tickTimer (b : Byte) : Byte := if b = 0#8 then 0#8 else b - 1#8

/-- `tick_timers()` (R318). -/
def tickTimers (s : State) : State := { s with dt := tickTimer s.dt, st := tickTimer s.st }

/-- The end of a step: the tick, unless the instruction raised a fault (R113, R311). -/
def endStep (s : State) : State := if s.fault.halted then s else tickTimers s

/-- What a halted step returns: the latched fault (R313). -/
def latchedFault (s : State) : Fault := .reported s.fault.cause s.fault.faultPc s.fault.info

/-- `s` with the bytes `bs` stored where the next fetch reads, from `PC` on.  A byte whose address is
outside memory is not stored. -/
def storeAtPc (s : State) (bs : List Byte) : State :=
  s.setMem (s.mem.writeAll s.pc.toNat (bs.take (Config.memSize - s.pc.toNat)))

end Sys2Proof.Machine
end

