-- ==== Sys2Proof/Machine/Operands.lean ====
section
/-! DEFINITION. The operand forms of the instructions (30_encoding.md R101, R102; 42_index_memory.md;
43_display.md; 44_input_timers.md) and the skip shared by six instructions. -/

namespace Sys2Proof.Machine

/-- `zext_16(v)` of a 12-bit address (R10, R102). -/
def zextAddr (nnn : Imm12) : Addr := nnn.setWidth 16

/-- `zext_16(v)` of a byte (R10). -/
def zextByte (b : Byte) : Addr := b.setWidth 16

/-- The effective address `(I + k) mod 65536` (R71, 42_index_memory.md). -/
def State.indexed (s : State) (k : Nat) : Addr := s.index + BitVec.ofNat 16 k

/-- The address of the glyph `FX29` selects: `(GLYPH_BASE + 5 * zext_16(b)) mod 65536`, with `b` not
reduced to its low nibble (R202). -/
def glyphAddr (b : Byte) : Addr := BitVec.ofNat 16 Config.glyphBase + 5#16 * zextByte b

/-- The registers `V0` to `VX`, rising, that `FX55` and `FX65` move (R204, R205). -/
def regsThrough (x : Reg) : List Reg := (List.finRange 16).take (x.val + 1)

/-- The three bytes of a BCD store with their offsets: hundreds, tens, units (R203). -/
def bcdDigits (b : Byte) : List (Nat × Byte) :=
  [(0, BitVec.ofNat 8 (b.toNat / 100)),
   (1, BitVec.ofNat 8 (b.toNat / 10 % 10)),
   (2, BitVec.ofNat 8 (b.toNat % 10))]

/-- The origin column of a sprite, `V[X] mod 64` (R231). -/
def spriteColumn (b : Byte) : Nat := b.toNat % Config.fbWidth

/-- The origin row of a sprite, `V[Y] mod 32` (R231). -/
def spriteRow (b : Byte) : Nat := b.toNat % Config.fbHeight

/-- The bit of a sprite row byte at column offset `c`: bit 7 is offset 0 (R232). -/
def spriteBit (row : Byte) (c : Nat) : Bool := row.getLsbD (7 - c)

/-- The key a register names, when it names one of the sixteen (R250). -/
def keyIndex (b : Byte) : Option Reg :=
  if h : b.toNat < 16 then some ⟨b.toNat, h⟩ else none

/-- `if c: PC <- (PC + 2) mod 65536` (40_control.md R139). -/
def skipIf (c : Bool) (s : State) : State := if c then s.setPc (s.pc + 2#16) else s

end Sys2Proof.Machine
end

