-- ==== Sys2Proof/Machine/Flags.lean ====
section
/-! DEFINITION. The flag values of 41_alu.md R168, as the byte VF is written with, and the order in which
the flag and the result are written (R175). -/

namespace Sys2Proof.Machine

/-- The byte of a flag: 1 or 0. -/
def flagByte (c : Bool) : Byte := if c then 1#8 else 0#8

/-- carry(a, b): 1 if a + b > 255, the sum taken without wrapping (R168). -/
def carryFlag (a b : Byte) : Byte := flagByte (decide (a.toNat + b.toNat > 255))

/-- The flag of `8XY5` on (a, b), and of `8XY7` on (b, a): 1 if the first is strictly greater (R168). -/
def greaterFlag (a b : Byte) : Byte := flagByte (decide (a.toNat > b.toNat))

/-- The shift-out of `8XY6`: bit 0 of a (R168). -/
def shiftOutLow (a : Byte) : Byte := flagByte (a.getLsbD 0)

/-- The shift-out of `8XYE`: bit 7 of a (R168). -/
def shiftOutHigh (a : Byte) : Byte := flagByte (a.getLsbD 7)

/-- VF is written with the flag, then `V[X]` with the result, so that with X = 15 the result stays (R175). -/
def State.setFlagThenReg (s : State) (flag : Byte) (x : Reg) (result : Byte) : State :=
  (s.setReg vf flag).setReg x result

end Sys2Proof.Machine
end

