-- ==== Sys2Proof/Machine/Alu.lean ====
section
/-! DEFINITION. Register loads and the ALU (41_alu.md).  Operands are read before anything is written
(R114, R175), and none of these instructions can fault. -/

namespace Sys2Proof.Machine

/-- `6XNN` LD VX, NN (R162). -/
def execLdImm (x : Reg) (nn : Byte) (s : State) : Host.Outcome State Fault Refusal :=
  .next (s.setReg x nn)

/-- `7XNN` ADD VX, NN (R163): wraps, and writes no flag. -/
def execAddImm (x : Reg) (nn : Byte) (s : State) : Host.Outcome State Fault Refusal :=
  .next (s.setReg x (s.reg x + nn))

/-- `8XY0` LD VX, VY (R164). -/
def execLdReg (x y : Reg) (s : State) : Host.Outcome State Fault Refusal :=
  .next (s.setReg x (s.reg y))

/-- `8XY1` OR VX, VY (R165): no flag. -/
def execOrReg (x y : Reg) (s : State) : Host.Outcome State Fault Refusal :=
  .next (s.setReg x (s.reg x ||| s.reg y))

/-- `8XY2` AND VX, VY (R166): no flag. -/
def execAndReg (x y : Reg) (s : State) : Host.Outcome State Fault Refusal :=
  .next (s.setReg x (s.reg x &&& s.reg y))

/-- `8XY3` XOR VX, VY (R167): no flag. -/
def execXorReg (x y : Reg) (s : State) : Host.Outcome State Fault Refusal :=
  .next (s.setReg x (s.reg x ^^^ s.reg y))

/-- `8XY4` ADD VX, VY with carry (R170). -/
def execAddReg (x y : Reg) (s : State) : Host.Outcome State Fault Refusal :=
  .next (s.setFlagThenReg (carryFlag (s.reg x) (s.reg y)) x (s.reg x + s.reg y))

/-- `8XY5` SUB VX, VY (R171). -/
def execSub (x y : Reg) (s : State) : Host.Outcome State Fault Refusal :=
  .next (s.setFlagThenReg (greaterFlag (s.reg x) (s.reg y)) x (s.reg x - s.reg y))

/-- `8XY6` SHR VX (R172): a logical shift by one; `V[Y]` is not read. -/
def execShr (x _y : Reg) (s : State) : Host.Outcome State Fault Refusal :=
  .next (s.setFlagThenReg (shiftOutLow (s.reg x)) x (s.reg x >>> 1))

/-- `8XY7` SUBN VX, VY (R173): Y − X (90_conflicts.md C1). -/
def execSubn (x y : Reg) (s : State) : Host.Outcome State Fault Refusal :=
  .next (s.setFlagThenReg (greaterFlag (s.reg y) (s.reg x)) x (s.reg y - s.reg x))

/-- `8XYE` SHL VX (R174): a shift by one; `V[Y]` is not read. -/
def execShl (x _y : Reg) (s : State) : Host.Outcome State Fault Refusal :=
  .next (s.setFlagThenReg (shiftOutHigh (s.reg x)) x (s.reg x <<< 1))

/-- `CXNN` RND VX, NN (R176): a new free draw, masked. -/
def execRnd (x : Reg) (nn : Byte) (s : State) : Host.Outcome State Fault Refusal :=
  .next (s.afterDraw.setReg x (s.drawnByte &&& nn))

end Sys2Proof.Machine
end

