-- ==== Sys2Proof/Machine/Control.lean ====
section
/-! DEFINITION. Control transfer (40_control.md).  Each meaning is the execute stage: `PC` already holds
`pc0 + 2` (30_encoding.md R112). -/

namespace Sys2Proof.Machine

/-- `00EE` RET (R130). -/
def execRet (s : State) : Host.Outcome State Fault Refusal := (popPc s).outcome

/-- `1NNN` JP NNN (R131). -/
def execJp (nnn : Imm12) (s : State) : Host.Outcome State Fault Refusal :=
  .next (s.setPc (zextAddr nnn))

/-- `2NNN` CALL NNN (R132): the return address pushed is the advanced `PC`. -/
def execCall (nnn : Imm12) (s : State) : Host.Outcome State Fault Refusal :=
  ((push s.pc s).andThen fun t => .done (t.setPc (zextAddr nnn))).outcome

/-- `3XNN` SE VX, NN (R133). -/
def execSeImm (x : Reg) (nn : Byte) (s : State) : Host.Outcome State Fault Refusal :=
  .next (skipIf (s.reg x == nn) s)

/-- `4XNN` SNE VX, NN (R134). -/
def execSneImm (x : Reg) (nn : Byte) (s : State) : Host.Outcome State Fault Refusal :=
  .next (skipIf (s.reg x != nn) s)

/-- `5XY0` SE VX, VY (R135). -/
def execSeReg (x y : Reg) (s : State) : Host.Outcome State Fault Refusal :=
  .next (skipIf (s.reg x == s.reg y) s)

/-- `9XY0` SNE VX, VY (R136). -/
def execSneReg (x y : Reg) (s : State) : Host.Outcome State Fault Refusal :=
  .next (skipIf (s.reg x != s.reg y) s)

/-- `BNNN` JP V0, NNN (R137): only `V[0]` is added, whatever bits 11–8 hold. -/
def execJpV0 (nnn : Imm12) (s : State) : Host.Outcome State Fault Refusal :=
  .next (s.setPc (zextByte (s.reg 0) + zextAddr nnn))

end Sys2Proof.Machine
end

