-- ==== Sys2Proof/Machine/Display.lean ====
section
/-! DEFINITION. The framebuffer instructions (43_display.md). -/

namespace Sys2Proof.Machine

/-- `00E0` CLS (R230). -/
def execCls (s : State) : Host.Outcome State Fault Refusal := .next (s.setFb Framebuffer.off)

/-- Turn a pixel over; when it was on, that is a collision and VF becomes 1 (R231). -/
def flipPixel (px : Fin 64) (py : Fin 32) (s : State) : State :=
  let on := s.fb.get px py
  let t := if on then s.setReg vf 1#8 else s
  t.setFb (s.fb.put px py (!on))

/-- `PixelOutOfRange`'s info, `py * 256 + px` (R233). -/
def pixelInfo (px py : Nat) : Addr := BitVec.ofNat 16 (py * 256 + px)

/-- What a set sprite bit does at column `px`, row `py`: no clipping and no wrapping, so a pixel outside
the grid raises `PixelOutOfRange` (R231, R233). -/
def drawPixel (px py : Nat) (s : State) : Attempt :=
  if h : px < 64 ∧ py < 32 then .done (flipPixel ⟨px, h.1⟩ ⟨py, h.2⟩ s)
  else raise .pixelOutOfRange (pixelInfo px py) s

/-- Column offset `c` of a sprite row at origin column `ox`, grid row `py`: a clear bit touches nothing. -/
def drawColumn (ox py : Nat) (row : Byte) (c : Nat) (s : State) : Attempt :=
  if spriteBit row c then drawPixel (ox + c) py s else .done s

/-- Row `r` of a sprite with origin (`ox`, `oy`): the row byte is read, then its eight columns are drawn
in rising order. -/
def drawRow (ox oy r : Nat) (s : State) : Attempt :=
  memRead (s.indexed r) (fun row t => forEach (drawColumn ox (oy + r) row) (List.range 8) t) s

/-- `DXYN` DRW VX, VY, N (R231): the coordinates are read before VF is cleared (R114). -/
def execDrw (x y : Reg) (n : Nibble) (s : State) : Host.Outcome State Fault Refusal :=
  (forEach (drawRow (spriteColumn (s.reg x)) (spriteRow (s.reg y))) (List.range n.toNat)
    (s.setReg vf 0#8)).outcome

end Sys2Proof.Machine
end

