-- ==== Sys2Proof/Machine/IndexMemory.lean ====
section
/-! DEFINITION. The index pointer and memory transfer (42_index_memory.md).  A transfer is a sequence of
one-byte accesses at rising addresses; the first address outside memory ends it, and what was moved before
stays moved (60_exceptions.md R311).  `I` is never changed by a transfer. -/

namespace Sys2Proof.Machine

/-- `ANNN` LD I, NNN (R200). -/
def execLdI (nnn : Imm12) (s : State) : Host.Outcome State Fault Refusal :=
  .next (s.setIndex (zextAddr nnn))

/-- `FX1E` ADD I, VX (R201): 16 bits, wraps, no flag. -/
def execAddI (x : Reg) (s : State) : Host.Outcome State Fault Refusal :=
  .next (s.setIndex (s.index + zextByte (s.reg x)))

/-- `FX29` LD F, VX (R202). -/
def execLdF (x : Reg) (s : State) : Host.Outcome State Fault Refusal :=
  .next (s.setIndex (glyphAddr (s.reg x)))

/-- Store byte `d.2` at offset `d.1` from `I`. -/
def storeDigit (d : Nat × Byte) (s : State) : Attempt := memWrite (s.indexed d.1) d.2 s

/-- `FX33` LD B, VX (R203). -/
def execLdB (x : Reg) (s : State) : Host.Outcome State Fault Refusal :=
  (forEach storeDigit (bcdDigits (s.reg x)) s).outcome

/-- Store `V[k]` at offset `k` from `I`. -/
def storeReg (k : Reg) (s : State) : Attempt := memWrite (s.indexed k.val) (s.reg k) s

/-- `FX55` LD [I], VX (R204). -/
def execLdMemVx (x : Reg) (s : State) : Host.Outcome State Fault Refusal :=
  (forEach storeReg (regsThrough x) s).outcome

/-- Load `V[k]` from offset `k` from `I`. -/
def loadReg (k : Reg) (s : State) : Attempt :=
  memRead (s.indexed k.val) (fun b t => .done (t.setReg k b)) s

/-- `FX65` LD VX, [I] (R205). -/
def execLdVxMem (x : Reg) (s : State) : Host.Outcome State Fault Refusal :=
  (forEach loadReg (regsThrough x) s).outcome

end Sys2Proof.Machine
end

