-- ==== Sys2Proof/Machine/InputTimers.lean ====
section
/-! DEFINITION. The keypad and timer instructions (44_input_timers.md).  The keypad is sampled when the
instruction executes; the timer tick of the same step comes after it (30_encoding.md R110). -/

namespace Sys2Proof.Machine

/-- Skip when the key register `X` names is down (`down` true) or up (`down` false); a register above 15
raises `KeyOutOfRange` (R250, R251, R306). -/
def skipOnKey (down : Bool) (x : Reg) (s : State) : Attempt :=
  match keyIndex (s.reg x) with
  | some k => .done (skipIf (s.keyDown k == down) s)
  | none => raise .keyOutOfRange (zextByte (s.reg x)) s

/-- `EX9E` SKP VX (R250). -/
def execSkp (x : Reg) (s : State) : Host.Outcome State Fault Refusal := (skipOnKey true x s).outcome

/-- `EXA1` SKNP VX (R251). -/
def execSknp (x : Reg) (s : State) : Host.Outcome State Fault Refusal := (skipOnKey false x s).outcome

/-- `FX07` LD VX, DT (R252): the value before this step's tick. -/
def execLdVxDt (x : Reg) (s : State) : Host.Outcome State Fault Refusal := .next (s.setReg x s.dt)

/-- `FX0A` LD VX, K (R253): the lowest key that is down, or, with none down, `PC` goes back so that the
next step runs it again. -/
def execLdVxK (x : Reg) (s : State) : Host.Outcome State Fault Refusal :=
  match s.firstKeyDown with
  | some k => .next (s.setReg x (BitVec.ofNat 8 k.val))
  | none => .next (s.setPc (s.pc - 2#16))

/-- `FX15` LD DT, VX (R254). -/
def execLdDtVx (x : Reg) (s : State) : Host.Outcome State Fault Refusal := .next (s.setDt (s.reg x))

/-- `FX18` LD ST, VX (R255). -/
def execLdStVx (x : Reg) (s : State) : Host.Outcome State Fault Refusal := .next (s.setSt (s.reg x))

end Sys2Proof.Machine
end

