-- ==== Sys2Proof/Machine/Step.lean ====
section
/-! DEFINITION. The step (30_encoding.md R110) and the host's way to place its next instruction. -/

namespace Sys2Proof.Machine

/-- The execute stage: the instruction in `current_opcode`, or nothing for a word that selects none
(R106, R108, R113). -/
def execute (s : State) : Host.Outcome State Fault Refusal :=
  match decode s.currentOpcode with
  | .instr i => exec i s
  | .unrecognized _ => .next s

/-- One fetch-decode-execute cycle with its timer tick (R110).  A halted core only reports its latched
fault (R313); a fetch fault ends the step at once (R111). -/
def step (s : State) : Host.Outcome State Fault Refusal :=
  if s.fault.halted then .fault (latchedFault s)
  else
    match fetch s with
    | .raised t => .next t
    | .done t =>
      match execute t with
      | .next u => .next (endStep u)
      | .fault r => .fault r
      | .refused r => .refused r

/-- `s` with an instruction's word stored where `step` fetches, high byte first (20_memory.md R73). -/
def State.withFetchWord (s : State) (nbits w : Nat) : State := storeAtPc s (tableBytes nbits w)

end Sys2Proof.Machine
end

