-- ==== Sys2Proof/Machine/HostOps.lean ====
section
/-! DEFINITION. The operations of the host (60_exceptions.md R324; 70_reset_and_hazards.md R340, R345): what
the outside world can do to the machine between two steps. -/

namespace Sys2Proof.Machine

/-- `reset()` (R340, R342): memory outside the glyph table, the keypad and `current_opcode` keep their
values.  `draws` is no state of the spec and keeps counting. -/
def State.resetOp (s : State) : State :=
  { s with
    v := Vector.replicate 16 0#8
    pc := Config.resetPc
    index := 0#16
    stack := Vector.replicate 16 0#16
    sp := 0
    dt := 0#8
    st := 0#8
    fb := Framebuffer.off
    mem := s.mem.writeAll Config.glyphBase glyphTable
    fault := FaultRecord.clear }

/-- The code of the load error `LoadTooLarge` (R301), which is no step fault and is never latched. -/
def loadTooLargeCode : BitVec 4 := 8#4

/-- What `load_program` returns: Ok with the new state, or `LoadTooLarge(info)` (R345). -/
inductive LoadResult where
  | ok (s : State)
  | tooLarge (info : Addr)
deriving DecidableEq, Repr

/-- `load_program(bytes)` (R345): all of the image or, when it does not fit, none of it. -/
def State.loadProgram (s : State) (image : List Byte) : LoadResult :=
  if imageFits image then .ok (s.setMem (s.mem.writeAll Config.programBase image))
  else .tooLarge (BitVec.ofNat 16 image.length)

/-- The host writes the sixteen key states (R320). -/
def State.writeKeypad (s : State) (keys : Vector Bool 16) : State := { s with keys := keys }

/-- `sound_active` (R319). -/
def State.soundActive (s : State) : Bool := s.st != 0#8

/-- What the host can ask for between steps (R324), with what it sends. -/
inductive HostCall where
  | reset
  | loadProgram (image : List Byte)
  | step
  | writeKeypad (keys : Vector Bool 16)
  | readFramebuffer
  | readSoundActive
  | readFault
deriving DecidableEq, Repr

/-- What an operation returns to the host (R324). -/
inductive HostReply where
  /-- `reset` and a keypad write return nothing, a load or a step that succeeds returns Ok. -/
  | ok
  | loadTooLarge (info : Addr)
  /-- A step that raised a fault, or a step of a halted core (R312, R313). -/
  | stepFault (cause : FaultCause) (faultPc info : Addr)
  /-- A step of an instruction the model refuses; no instruction of the spec is refused. -/
  | refused (r : Refusal)
  | pixels (fb : Framebuffer)
  | soundActive (b : Bool)
  | faultRecord (f : FaultRecord)
deriving DecidableEq, Repr

/-- What a `step` call returns for the state it leaves: `Fault(cause, fault_pc, info)` with the values of
the `FAULT` record when the step raised a fault, else Ok (R312). -/
def stepReply (s : State) : HostReply :=
  if s.fault.halted then .stepFault s.fault.cause s.fault.faultPc s.fault.info else .ok

/-- One operation of the host: its reply and the state it leaves (R324). -/
def hostCall (c : HostCall) (s : State) : HostReply × State :=
  match c with
  | .reset => (.ok, s.resetOp)
  | .loadProgram image =>
    match s.loadProgram image with
    | .ok t => (.ok, t)
    | .tooLarge info => (.loadTooLarge info, s)
  | .step =>
    match step s with
    | .next t => (stepReply t, t)
    | .fault (.reported cause faultPc info) => (.stepFault cause faultPc info, s)
    | .refused r => (.refused r, s)
  | .writeKeypad keys => (.ok, s.writeKeypad keys)
  | .readFramebuffer => (.pixels s.fb, s)
  | .readSoundActive => (.soundActive s.soundActive, s)
  | .readFault => (.faultRecord s.fault, s)

/-- The state after a sequence of host operations, the driver of R344 and R324 among them. -/
def hostRun (cs : List HostCall) (s : State) : State := cs.foldl (fun t c => (hostCall c t).2) s

end Sys2Proof.Machine
end

