-- ==== Sys2Proof/Safety.lean ====
section
/-! DEFINITION. What counts as a safe run, and the words the claims are written in. -/

namespace Sys2Proof.Machine

/-! ## Safe runs -/

/-- The core is not halted by a fault (10_state.md R44, 60_exceptions.md R313). -/
abbrev State.Running (s : State) : Prop := s.fault.halted = false

/-- A safe run: `k` steps from `s` raise no fault and end in `t`.  A step that raises a fault answers a state
that is not running, and U4 of 93_implementation_defined.md tells a model to read nothing else from such a
state, so a claim about a program asks for this. -/
def SafeRun (k : Nat) (s t : State) : Prop := Sys2Proof.core.run k s = .next t ∧ t.Running

/-! ## The invariant -/

/-- A latched record has a cause, an address and an info that go together as 60_exceptions.md R301 and R303
say: a fetch fault comes from an address at 4095 or above, every other one from an instruction that was
fetched. -/
def FaultRecord.infoFits (f : FaultRecord) : Prop :=
  match f.cause with
  | .noFault => False
  | .stackOverflow => f.faultPc.toNat < 4095 ∧ f.info.toNat = 16
  | .stackUnderflow => f.faultPc.toNat < 4095 ∧ f.info.toNat = 0
  | .fetchOutOfRange => 4095 ≤ f.faultPc.toNat ∧ f.info.toNat = max 4096 f.faultPc.toNat
  | .readOutOfRange => f.faultPc.toNat < 4095 ∧ 4096 ≤ f.info.toNat
  | .writeOutOfRange => f.faultPc.toNat < 4095 ∧ 4096 ≤ f.info.toNat
  | .pixelOutOfRange => f.faultPc.toNat < 4095 ∧ f.info.toNat % 256 ≤ 70 ∧ f.info.toNat / 256 ≤ 46 ∧
      (64 ≤ f.info.toNat % 256 ∨ 32 ≤ f.info.toNat / 256)
  | .keyOutOfRange => f.faultPc.toNat < 4095 ∧ 15 < f.info.toNat ∧ f.info.toNat ≤ 255

/-- `FAULT` is all 0 or holds a fault of R301. -/
def FaultRecord.Lawful (f : FaultRecord) : Prop :=
  (f.halted = false ∧ f = FaultRecord.clear) ∨ (f.halted = true ∧ f.infoFits)

/-- The invariant of the machine: memory is in canonical form, and `FAULT` is lawful.  (That `SP` is at
most 16, R37, is the type of the field.) -/
def State.Inv (s : State) : Prop := s.mem.wf ∧ s.fault.Lawful

/-! ## The words of the claims -/

/-- The sixteen glyphs of the table of 93_implementation_defined.md I1, digit by digit: the five bytes of a
glyph as one number, the byte at the lowest address first.  The spec marks the bytes as general knowledge, not
in its source (log entry 11). -/
def glyphsOfI1 : Vector (BitVec 40) 16 :=
  #v[0xF0909090F0#40, 0x2060202070#40, 0xF010F080F0#40, 0xF010F010F0#40,
     0x9090F01010#40, 0xF080F010F0#40, 0xF080F090F0#40, 0xF010204040#40,
     0xF090F090F0#40, 0xF090F010F0#40, 0xF090F09090#40, 0xE090E090E0#40,
     0xF0808080F0#40, 0xE0909090E0#40, 0xF080F080F0#40, 0xF080F08080#40]

/-- Every value 10_state.md R47 gives the state after `reset()`.  Memory at 0x050 to 0x09F holds the bytes of
I1, byte `r` of the glyph of digit `d` at 0x050 + 5 * d + r. -/
def State.HoldsResetValues (t : State) : Prop :=
  (∀ r, t.reg r = 0#8) ∧ t.pc = 0x200#16 ∧ t.index = 0#16 ∧
  (∀ k : Fin 16, t.stack[k] = 0#16) ∧ t.sp = 0 ∧ t.dt = 0#8 ∧ t.st = 0#8 ∧
  (∀ px py, t.fb.get px py = false) ∧
  (∀ (d : Fin 16) (r : Fin 5),
    t.mem.read (0x050 + 5 * d.val + r.val) = glyphsOfI1[d].extractLsb' (8 * (4 - r.val)) 8) ∧
  t.fault = { halted := false, cause := .noFault, faultPc := 0#16, info := 0#16 }

/-- `t` is `s` but for the registers in `rs`: every other register, every other field and every byte of
memory are unchanged. -/
def OnlyRegsChange (rs : List Reg) (s t : State) : Prop :=
  t = { s with v := t.v } ∧ (∀ r, r ∉ rs → t.reg r = s.reg r) ∧ ∀ a, t.byteAt a = s.byteAt a

/-- The word the next fetch reads, when `PC` is below 4095. -/
def State.fetchedWord (s : State) : Word :=
  wordOf (s.mem.read s.pc.toNat) (s.mem.read (s.pc.toNat + 1))

/-- The state the execute stage starts from (30_encoding.md R111, R112). -/
def State.afterFetch (s : State) : State :=
  { s with currentOpcode := s.fetchedWord, pc := s.pc + 2#16 }

/-- The execute stages of several instructions in order, with no fetch and no tick between them. -/
def execAll : List Instr → State → Host.Outcome State Fault Refusal
  | [], s => .next s
  | i :: is, s =>
    match exec i s with
    | .next t => execAll is t
    | .fault r => .fault r
    | .refused r => .refused r

/-- The registers an instruction may write: its destination, and VF for the six instructions of 10_state.md
R32 that write it as a side effect. -/
def regsWritten : Instr → List Reg
  | .cls => []
  | .ret => []
  | .jp _ => []
  | .call _ => []
  | .seImm _ _ => []
  | .sneImm _ _ => []
  | .seReg _ _ => []
  | .ldImm x _ => [x]
  | .addImm x _ => [x]
  | .ldReg x _ => [x]
  | .orReg x _ => [x]
  | .andReg x _ => [x]
  | .xorReg x _ => [x]
  | .addReg x _ => [x, vf]
  | .sub x _ => [x, vf]
  | .shr x _ => [x, vf]
  | .subn x _ => [x, vf]
  | .shl x _ => [x, vf]
  | .sneReg _ _ => []
  | .ldI _ => []
  | .jpV0 _ => []
  | .rnd x _ => [x]
  | .drw _ _ _ => [vf]
  | .skp _ => []
  | .sknp _ => []
  | .ldVxDt x => [x]
  | .ldVxK x => [x]
  | .ldDtVx _ => []
  | .ldStVx _ => []
  | .addI _ => []
  | .ldF _ => []
  | .ldB _ => []
  | .ldMemVx _ => []
  | .ldVxMem x => (List.finRange 16).filter (fun k => k ≤ x)

/-- The instructions whose execute stage may change `PC`: returns, jumps, calls, skips and the key wait
(R112). -/
def changesPc : Instr → Bool
  | .cls => false
  | .ret => true
  | .jp _ => true
  | .call _ => true
  | .seImm _ _ => true
  | .sneImm _ _ => true
  | .seReg _ _ => true
  | .ldImm _ _ => false
  | .addImm _ _ => false
  | .ldReg _ _ => false
  | .orReg _ _ => false
  | .andReg _ _ => false
  | .xorReg _ _ => false
  | .addReg _ _ => false
  | .sub _ _ => false
  | .shr _ _ => false
  | .subn _ _ => false
  | .shl _ _ => false
  | .sneReg _ _ => true
  | .ldI _ => false
  | .jpV0 _ => true
  | .rnd _ _ => false
  | .drw _ _ _ => false
  | .skp _ => true
  | .sknp _ => true
  | .ldVxDt _ => false
  | .ldVxK _ => true
  | .ldDtVx _ => false
  | .ldStVx _ => false
  | .addI _ => false
  | .ldF _ => false
  | .ldB _ => false
  | .ldMemVx _ => false
  | .ldVxMem _ => false

/-- The sprite bit of `DXYN` that falls on column `px`, row `py`, which need not be inside the grid
(43_display.md R231, R232): the origin is (`V[X]` mod 64, `V[Y]` mod 32), the row byte of grid row `py` is at
`I + (py - oy)`, and its bit 7 is column offset 0. -/
def spriteCovers (s : State) (x y : Reg) (n : Nibble) (px py : Nat) : Bool :=
  let ox := (s.reg x).toNat % 64
  let oy := (s.reg y).toNat % 32
  decide (ox ≤ px ∧ px < ox + 8 ∧ oy ≤ py ∧ py < oy + n.toNat) &&
    (s.mem.read (s.index.toNat + (py - oy))).getLsbD (7 - (px - ox))

/-- Row `r` of a sprite is readable and every set bit of it is inside the grid. -/
def spriteRowFits (s : State) (x y : Reg) (n : Nibble) (r : Nat) : Prop :=
  s.index.toNat + r < 4096 ∧
    ∀ px, spriteCovers s x y n px ((s.reg y).toNat % 32 + r) = true →
      px < 64 ∧ (s.reg y).toNat % 32 + r < 32

/-- The whole sprite is readable and every set bit of it is inside the grid. -/
def spriteFits (s : State) (x y : Reg) (n : Nibble) : Prop :=
  ∀ r, r < n.toNat → spriteRowFits s x y n r

/-- The pixels of the sprite that `DXYN` has turned over when row `r`, the first that does not fit, ends the
draw (R231, R311): those of the rows before it and, when row `r` can be read, those of row `r` inside the
grid.  (These all lie left of its first set bit outside: when grid row `oy + r` exists, that bit is at column
64 or above.) -/
def drawnBeforeFault (s : State) (x y : Reg) (n : Nibble) (r : Nat) (px : Fin 64) (py : Fin 32) : Bool :=
  spriteCovers s x y n px py &&
    decide (py.val < (s.reg y).toNat % 32 + r ∨
      (py.val = (s.reg y).toNat % 32 + r ∧ s.index.toNat + r < 4096))

end Sys2Proof.Machine
end

