-- ==== Sys2Proof/Certificates/Slice0/Obligations.lean ====
section
/-! DEFINITION. The statements for the provers.  Each docstring names the rule of the spec it formalises. -/

open Sys2Proof Sys2Proof.Machine

/-! ## Encoding and decoding -/

/-- R104, R105, R73, R100: the two bytes of every instruction, whatever follows them, decode to that
instruction and leave what follows. -/
def Obligations.DecodeOfEncode : Prop :=
  ∀ (i : Instr) (rest : List Byte),
    decodeBytes (wordBytes (encode i) ++ rest) = .decoded (.instr i) rest

/-- R105: decode matches the full 16-bit word, so a word that decodes to an instruction is that
instruction's only word. -/
def Obligations.EncodeOfDecode : Prop :=
  ∀ (w : Word) (i : Instr), decode w = .instr i → encode i = w

/-- R105, R107: a word decodes to an instruction exactly when it lies in a row of the opcode table, and then
to one of that row (so no two rows overlap); every other word is unrecognized. -/
def Obligations.DecodeFollowsOpcodeTable : Prop :=
  ∀ w : Word,
    (∀ i, decode w = .instr i → w &&& (opcodeRow i).1 = (opcodeRow i).2) ∧
    (∀ j, w &&& (opcodeRow j).1 = (opcodeRow j).2 →
      ∃ i, decode w = .instr i ∧ opcodeRow i = opcodeRow j) ∧
    ((∀ j, w &&& (opcodeRow j).1 ≠ (opcodeRow j).2) → decode w = .unrecognized w)

/-- Words of the spec's own examples, one or more of each family, and words R105 and R106 call no
instruction. -/
def Obligations.SpecWordsDecode : Prop :=
  decode 0x00E0#16 = .instr .cls ∧ decode 0x00EE#16 = .instr .ret ∧
  decode 0x12F0#16 = .instr (.jp 0x2F0#12) ∧ decode 0x220A#16 = .instr (.call 0x20A#12) ∧
  decode 0x3342#16 = .instr (.seImm 3 0x42#8) ∧ decode 0x9120#16 = .instr (.sneReg 1 2) ∧
  decode 0x6A02#16 = .instr (.ldImm 10 0x02#8) ∧ decode 0x8215#16 = .instr (.sub 2 1) ∧
  decode 0x821E#16 = .instr (.shl 2 1) ∧ decode 0xC10F#16 = .instr (.rnd 1 0x0F#8) ∧
  decode 0xA300#16 = .instr (.ldI 0x300#12) ∧ decode 0xFA33#16 = .instr (.ldB 10) ∧
  decode 0xD015#16 = .instr (.drw 0 1 5#4) ∧ decode 0xE19E#16 = .instr (.skp 1) ∧
  decode 0xF107#16 = .instr (.ldVxDt 1) ∧ decode 0xF20A#16 = .instr (.ldVxK 2) ∧
  decode 0x5121#16 = .unrecognized 0x5121#16 ∧ decode 0x8128#16 = .unrecognized 0x8128#16 ∧
  decode 0x0123#16 = .unrecognized 0x0123#16 ∧ decode 0xF1FF#16 = .unrecognized 0xF1FF#16

/-! ## Reset and the host -/

/-- R340, R342, R47: what `reset()` sets, and what it leaves: memory outside the glyph table, the keypad and
`current_opcode`.  The reset state the machine starts from holds the same values.  The bytes of the glyph
table are those of 93_implementation_defined.md I1, which the spec marks as general knowledge (PRESUMED, log
entry 11). -/
def Obligations.ResetSetsAndKeeps : Prop :=
  Sys2Proof.core.reset = State.reset ∧ State.reset.HoldsResetValues ∧
  ∀ s : State,
    hostCall .reset s = (.ok, s.resetOp) ∧ s.resetOp.HoldsResetValues ∧
    (∀ a, a < 0x050 ∨ 0x09F < a → s.resetOp.mem.read a = s.mem.read a) ∧
    s.resetOp.keys = s.keys ∧ s.resetOp.currentOpcode = s.currentOpcode

/-- The state right after reset meets the invariant that every step keeps.  (The canonical form of memory,
with nothing listed at reset, is the model's representation, log entry 1.) -/
def Obligations.ResetStateMeetsTheInvariant : Prop := State.reset.Inv

/-- R345: `load_program` copies an image that fits, and nothing else changes; one that does not fit is
rejected whole. -/
def Obligations.LoadProgramCopiesOrRejects : Prop :=
  ∀ (s : State) (image : List Byte),
    (image.length ≤ 3584 →
      ∃ t, s.loadProgram image = .ok t ∧ hostCall (.loadProgram image) s = (.ok, t) ∧
        t = { s with mem := t.mem } ∧
        (∀ j, j < image.length → image[j]? = some (t.mem.read (0x200 + j))) ∧
        (∀ a, a < 0x200 ∨ 0x200 + image.length ≤ a → t.mem.read a = s.mem.read a)) ∧
    (3584 < image.length →
      s.loadProgram image = .tooLarge (BitVec.ofNat 16 image.length) ∧
      hostCall (.loadProgram image) s = (.loadTooLarge (BitVec.ofNat 16 image.length), s))

/-- R313: a halted core's step changes no state and returns the latched fault; no operation of the host but
`reset` changes `FAULT`, and `reset` clears it. -/
def Obligations.HaltedCoreLeavesOnlyByReset : Prop :=
  ∀ s : State, s.fault.halted = true →
    step s = .fault (.reported s.fault.cause s.fault.faultPc s.fault.info) ∧
    hostCall .step s = (.stepFault s.fault.cause s.fault.faultPc s.fault.info, s) ∧
    (∀ c, c ≠ .reset → (hostCall c s).2.fault = s.fault) ∧
    (hostCall .reset s).2.fault.halted = false

/-- R312: a step of a running core that raises a fault returns it to the host with the values it writes into
the `FAULT` record, and `fault_pc` is the address the step fetched from. -/
def Obligations.FaultingStepIsReportedAndLatched : Prop :=
  ∀ s t : State, s.Running → step s = .next t → t.fault.halted = true →
    hostCall .step s = (.stepFault t.fault.cause t.fault.faultPc t.fault.info, t) ∧
    t.fault.faultPc = s.pc

/-- Every operation of the host, steps among them, in any order and with any inputs, keeps the invariant:
memory in canonical form (the model's representation, log entry 1) and a `FAULT` record as R44, R301 and
R303 say. -/
def Obligations.HostRunsKeepTheInvariant : Prop :=
  ∀ (cs : List HostCall) (s : State), s.Inv → (hostRun cs s).Inv

/-! ## Memory -/

/-- R12, R72: the data-access primitives.  A write inside memory is read back and changes no other byte; a
read or write at 4096 or above raises its fault and changes nothing but `FAULT`.  The `fault_pc` of `PC - 2`
is the model's reading of R312 and R112 (DEDUCED, log entry 6). -/
def Obligations.MemoryPrimitivesReadBackOrFault : Prop :=
  ∀ (s : State) (a : Addr) (b : Byte),
    (a.toNat < 4096 →
      ∃ t, memWrite a b s = .done t ∧ t = { s with mem := t.mem } ∧ t.byteAt a = some b ∧
        (∀ a', a' ≠ a → t.byteAt a' = s.byteAt a') ∧
        memRead a (fun c u => .done (u.setReg 0 c)) t = .done (t.setReg 0 b)) ∧
    (4096 ≤ a.toNat →
      memWrite a b s = .raised { s with fault := ⟨true, .writeOutOfRange, s.pc - 2#16, a⟩ } ∧
      ∀ k, memRead a k s = .raised { s with fault := ⟨true, .readOutOfRange, s.pc - 2#16, a⟩ })

/-- The canonical form does its work: two memories in it that read alike whatever memory held at power-on are
one list.  (The form is the model's, log entry 1.) -/
def Obligations.CanonicalMemoriesThatReadAlikeAreEqual : Prop :=
  ∀ m m' : Memory, m.wf → m'.wf →
    (∀ (init : Nat → Byte) (a : Nat), a < 4096 → m.readWith init a = m'.readWith init a) → m = m'

/-- R85, R353: a word stored where the next fetch reads is what the next step fetches, with nothing needed
in between. -/
def Obligations.StoredWordIsFetched : Prop :=
  ∀ (s : State) (w : Word), s.pc.toNat < 4095 →
    (s.withFetchWord 16 w.toNat).fetchedWord = w ∧
    fetch (s.withFetchWord 16 w.toNat) =
      .done { s.withFetchWord 16 w.toNat with currentOpcode := w, pc := s.pc + 2#16 } ∧
    s.withFetchWord 16 w.toNat = { s with mem := (s.withFetchWord 16 w.toNat).mem } ∧
    ∀ a, a ≠ s.pc.toNat → a ≠ s.pc.toNat + 1 →
      (s.withFetchWord 16 w.toNat).mem.read a = s.mem.read a

/-! ## The step -/

/-- R110, R113: when the bytes at `PC` decode to an instruction, the step is that instruction's execute stage
from the state with `current_opcode` fetched and `PC` advanced, and then the timer tick, which a fault
leaves out. -/
def Obligations.StepRunsTheDecodedInstruction : Prop :=
  ∀ (s : State) (hi lo : Byte) (i : Instr), s.Running →
    s.byteAt s.pc = some hi → s.byteAt (s.pc + 1#16) = some lo →
    decode (wordOf hi lo) = .instr i →
    ∃ u, exec i { s with currentOpcode := wordOf hi lo, pc := s.pc + 2#16 } = .next u ∧
      step s = .next (if u.fault.halted then u
        else { u with dt := BitVec.ofNat 8 (u.dt.toNat - 1), st := BitVec.ofNat 8 (u.st.toNat - 1) })

/-- R106: a word that selects no instruction is a true no-op; the step advances `PC` and ticks the timers. -/
def Obligations.UnrecognizedWordIsANoOp : Prop :=
  ∀ s : State, s.Running → s.pc.toNat < 4095 →
    decode s.fetchedWord = .unrecognized s.fetchedWord →
    step s = .next { s with
      currentOpcode := s.fetchedWord
      pc := s.pc + 2#16
      dt := BitVec.ofNat 8 (s.dt.toNat - 1)
      st := BitVec.ofNat 8 (s.st.toNat - 1) }

/-- R303: a fetch with `PC` or `PC + 1` at 4096 or above raises `FetchOutOfRange`, and the step does nothing
else. -/
def Obligations.FetchOutsideMemoryFaults : Prop :=
  ∀ s : State, s.Running → 4095 ≤ s.pc.toNat →
    step s = .next { s with fault :=
      { halted := true, cause := .fetchOutOfRange, faultPc := s.pc,
        info := if 4096 ≤ s.pc.toNat then s.pc else 0x1000#16 } }

/-- No step of a running core stops: it answers a next state, whatever the fetched word is (R107: there are no
trapping encodings).  That a step which raises a fault answers a next state too, one whose `FAULT` record holds
the fault, is the model's reading (DEDUCED, log entry 5); in R110 and R312 such a step returns Fault. -/
def Obligations.RunningCoreAlwaysSteps : Prop :=
  ∀ s : State, s.Running → ∃ t, step s = .next t

/-- Every step keeps the canonical form of memory (the model's representation, log entry 1) and a `FAULT`
record as R44, R301 and R303 say, from every state that has them. -/
def Obligations.StepKeepsTheInvariant : Prop :=
  ∀ s t : State, s.Inv → step s = .next t → t.Inv

/-- R318, R352: a completed step ticks each timer once, after the instruction: a timer the instruction set
ends one lower than the value it was set to, and every other one lower than before, 0 staying 0.  A step
that raises a fault does not tick (R311). -/
def Obligations.TimersCountCompletedSteps : Prop :=
  ∀ s t : State, s.Running → step s = .next t →
    (t.fault.halted = true → t.dt = s.dt ∧ t.st = s.st) ∧
    (t.Running →
      t.dt.toNat = (match decode s.fetchedWord with
        | .instr (.ldDtVx x) => (s.reg x).toNat
        | _ => s.dt.toNat) - 1 ∧
      t.st.toNat = (match decode s.fetchedWord with
        | .instr (.ldStVx x) => (s.reg x).toNat
        | _ => s.st.toNat) - 1)

/-- R311 (the spec's decision D5): after a fault `PC` is `pc0` when the fetch raised it and `pc0 + 2` when
the instruction did, the timers have not ticked, and the keypad and `I` are as before. -/
def Obligations.FaultLeavesPcAndTimers : Prop :=
  ∀ s t : State, s.Running → step s = .next t → t.fault.halted = true →
    t.pc = (if t.fault.cause = .fetchOutOfRange then s.pc else s.pc + 2#16) ∧
    t.dt = s.dt ∧ t.st = s.st ∧ t.index = s.index ∧ t.sp = s.sp ∧ t.stack = s.stack ∧ t.keys = s.keys

/-- R301: the only conditions under which an instruction raises a fault, with the cause and info of each: a
transfer's info is the address at one of its offsets that lies outside memory, a draw's is such an address or
`py * 256 + px` for a pixel the sprite covers outside the grid.  That `fault_pc` is then `PC - 2` is the
model's reading of R312 and R112 (DEDUCED, log entry 6). -/
def Obligations.InstructionsFaultOnlyAsListed : Prop :=
  ∀ (i : Instr) (s t : State), s.Running → exec i s = .next t →
    t.fault = s.fault ∨
    (t.fault.halted = true ∧ t.fault.faultPc = s.pc - 2#16 ∧
      ((∃ nnn, i = .call nnn ∧ s.sp.val = 16 ∧ t.fault.cause = .stackOverflow ∧ t.fault.info = 16#16) ∨
       (i = .ret ∧ s.sp.val = 0 ∧ t.fault.cause = .stackUnderflow ∧ t.fault.info = 0#16) ∨
       (∃ x k, ((i = .ldB x ∧ k < 3) ∨ (i = .ldMemVx x ∧ k ≤ x.val)) ∧
          4096 ≤ (s.indexed k).toNat ∧
          t.fault.cause = .writeOutOfRange ∧ t.fault.info = s.indexed k) ∨
       (∃ x k, i = .ldVxMem x ∧ k ≤ x.val ∧ 4096 ≤ (s.indexed k).toNat ∧
          t.fault.cause = .readOutOfRange ∧ t.fault.info = s.indexed k) ∨
       (∃ x y n k, i = .drw x y n ∧ k < n.toNat ∧ 4096 ≤ (s.indexed k).toNat ∧
          t.fault.cause = .readOutOfRange ∧ t.fault.info = s.indexed k) ∨
       (∃ x y n px py, i = .drw x y n ∧ spriteCovers s x y n px py = true ∧ (64 ≤ px ∨ 32 ≤ py) ∧
          t.fault.cause = .pixelOutOfRange ∧ t.fault.info.toNat = py * 256 + px) ∨
       (∃ x, (i = .skp x ∨ i = .sknp x) ∧ 15 < (s.reg x).toNat ∧ t.fault.cause = .keyOutOfRange ∧
          t.fault.info.toNat = (s.reg x).toNat)))

/-! ## Control transfer -/

/-- R130: `RET` pops the return address; with an empty stack it raises `StackUnderflow`, info 0, before any
write.  The `fault_pc` of `PC - 2` is the model's reading of R312 and R112 (DEDUCED, log entry 6). -/
def Obligations.ReturnPopsOrUnderflows : Prop :=
  encode .ret = 0x00EE#16 ∧
  ∀ s : State,
    (∀ h : 0 < s.sp.val, exec .ret s = .next { s with
      sp := ⟨s.sp.val - 1, by omega⟩, pc := s.stack[s.sp.val - 1]'(by omega) }) ∧
    (s.sp.val = 0 → exec .ret s = .next { s with fault :=
      { halted := true, cause := .stackUnderflow, faultPc := s.pc - 2#16, info := 0#16 } })

/-- R131, R137: the jumps.  `JP V0` adds `V[0]` only, and the sum never wraps. -/
def Obligations.JumpsGoToTheirTargets : Prop :=
  ∀ (s : State) (nnn : Imm12),
    encode (.jp nnn) = BitVec.ofNat 16 (0x1000 + nnn.toNat) ∧
    encode (.jpV0 nnn) = BitVec.ofNat 16 (0xB000 + nnn.toNat) ∧
    (∃ t, exec (.jp nnn) s = .next t ∧ t = { s with pc := t.pc } ∧ t.pc.toNat = nnn.toNat) ∧
    (∃ t, exec (.jpV0 nnn) s = .next t ∧ t = { s with pc := t.pc } ∧
      t.pc.toNat = (s.reg 0).toNat + nnn.toNat)

/-- R132: `CALL` pushes the advanced `PC` and jumps; with 16 entries in use it raises `StackOverflow`, info
16, before any write.  The `fault_pc` of `PC - 2` is the model's reading of R312 and R112 (DEDUCED, log
entry 6). -/
def Obligations.CallPushesOrOverflows : Prop :=
  ∀ (s : State) (nnn : Imm12),
    encode (.call nnn) = BitVec.ofNat 16 (0x2000 + nnn.toNat) ∧
    (∀ h : s.sp.val < 16, exec (.call nnn) s = .next { s with
      stack := s.stack.set s.sp.val s.pc
      sp := ⟨s.sp.val + 1, by omega⟩
      pc := BitVec.ofNat 16 nnn.toNat }) ∧
    (s.sp.val = 16 → exec (.call nnn) s = .next { s with fault :=
      { halted := true, cause := .stackOverflow, faultPc := s.pc - 2#16, info := 16#16 } })

/-- A `RET` after a `CALL`, wherever the called code has gone meanwhile, comes back to the instruction after
the `CALL` with the stack pointer as before. -/
def Obligations.ReturnUndoesCall : Prop :=
  ∀ (s : State) (nnn : Imm12) (there : Addr), s.sp.val < 16 →
    ∃ t, exec (.call nnn) s = .next t ∧
      exec .ret { t with pc := there } = .next { s with stack := t.stack } ∧
      ∀ k : Fin 16, k.val ≠ s.sp.val → t.stack[k] = s.stack[k]

/-- R355: at most 16 calls can be outstanding; from an empty stack any 16 calls succeed and a 17th raises
`StackOverflow`. -/
def Obligations.SixteenCallsFillTheStack : Prop :=
  ∀ (targets : List Imm12) (s : State), s.Running → s.sp.val = 0 →
    (targets.length ≤ 16 →
      ∃ t, execAll (targets.map .call) s = .next t ∧ t.sp.val = targets.length ∧ t.Running) ∧
    (targets.length = 17 →
      ∃ t, execAll (targets.map .call) s = .next t ∧ t.sp.val = 16 ∧ t.fault.halted = true ∧
        t.fault.cause = .stackOverflow)

/-- R133, R134, R135, R136: the compare-and-skip instructions change `PC` alone, by 2 modulo 65536, when
their condition holds. -/
def Obligations.SkipsAddTwoWhenTheirConditionHolds : Prop :=
  ∀ (s : State) (x y : Reg) (nn : Byte),
    encode (.seImm x nn) = BitVec.ofNat 16 (0x3000 + 0x100 * x.val + nn.toNat) ∧
    encode (.sneImm x nn) = BitVec.ofNat 16 (0x4000 + 0x100 * x.val + nn.toNat) ∧
    encode (.seReg x y) = BitVec.ofNat 16 (0x5000 + 0x100 * x.val + 0x10 * y.val) ∧
    encode (.sneReg x y) = BitVec.ofNat 16 (0x9000 + 0x100 * x.val + 0x10 * y.val) ∧
    exec (.seImm x nn) s = .next { s with pc := if s.reg x = nn then s.pc + 2#16 else s.pc } ∧
    exec (.sneImm x nn) s = .next { s with pc := if s.reg x = nn then s.pc else s.pc + 2#16 } ∧
    exec (.seReg x y) s = .next { s with pc := if s.reg x = s.reg y then s.pc + 2#16 else s.pc } ∧
    exec (.sneReg x y) s = .next { s with pc := if s.reg x = s.reg y then s.pc else s.pc + 2#16 }

/-! ## Register loads and the ALU -/

/-- R162, R163, R164: load immediate, add immediate (which wraps and writes no flag), and assign. -/
def Obligations.LoadsAndAddImmediate : Prop :=
  ∀ (s : State) (x y : Reg) (nn : Byte),
    encode (.ldImm x nn) = BitVec.ofNat 16 (0x6000 + 0x100 * x.val + nn.toNat) ∧
    encode (.addImm x nn) = BitVec.ofNat 16 (0x7000 + 0x100 * x.val + nn.toNat) ∧
    encode (.ldReg x y) = BitVec.ofNat 16 (0x8000 + 0x100 * x.val + 0x10 * y.val) ∧
    (∃ t, exec (.ldImm x nn) s = .next t ∧ t.reg x = nn ∧ OnlyRegsChange [x] s t) ∧
    (∃ t, exec (.addImm x nn) s = .next t ∧
      (t.reg x).toNat = ((s.reg x).toNat + nn.toNat) % 256 ∧ OnlyRegsChange [x] s t) ∧
    (∃ t, exec (.ldReg x y) s = .next t ∧ t.reg x = s.reg y ∧ OnlyRegsChange [x] s t)

/-- R165, R166, R167: the bitwise instructions, bit by bit, with no flag written. -/
def Obligations.BitwiseInstructions : Prop :=
  ∀ (s : State) (x y : Reg),
    encode (.orReg x y) = BitVec.ofNat 16 (0x8001 + 0x100 * x.val + 0x10 * y.val) ∧
    encode (.andReg x y) = BitVec.ofNat 16 (0x8002 + 0x100 * x.val + 0x10 * y.val) ∧
    encode (.xorReg x y) = BitVec.ofNat 16 (0x8003 + 0x100 * x.val + 0x10 * y.val) ∧
    (∃ t, exec (.orReg x y) s = .next t ∧ OnlyRegsChange [x] s t ∧
      ∀ k, (t.reg x).getLsbD k = ((s.reg x).getLsbD k || (s.reg y).getLsbD k)) ∧
    (∃ t, exec (.andReg x y) s = .next t ∧ OnlyRegsChange [x] s t ∧
      ∀ k, (t.reg x).getLsbD k = ((s.reg x).getLsbD k && (s.reg y).getLsbD k)) ∧
    (∃ t, exec (.xorReg x y) s = .next t ∧ OnlyRegsChange [x] s t ∧
      ∀ k, (t.reg x).getLsbD k = ((s.reg x).getLsbD k ^^ (s.reg y).getLsbD k))

/-- R170: add with carry.  With X = 15 the sum is what stays in VF (R175). -/
def Obligations.AddWithCarry : Prop :=
  ∀ (s : State) (x y : Reg),
    encode (.addReg x y) = BitVec.ofNat 16 (0x8004 + 0x100 * x.val + 0x10 * y.val) ∧
    ∃ t, exec (.addReg x y) s = .next t ∧ OnlyRegsChange [x, vf] s t ∧
      (t.reg x).toNat = ((s.reg x).toNat + (s.reg y).toNat) % 256 ∧
      (x ≠ vf → t.reg vf = if (s.reg x).toNat + (s.reg y).toNat > 255 then 1#8 else 0#8)

/-- R171, R173: the two subtractions, with a flag that is 1 only when the minuend is strictly greater. -/
def Obligations.SubtractBothWays : Prop :=
  ∀ (s : State) (x y : Reg),
    encode (.sub x y) = BitVec.ofNat 16 (0x8005 + 0x100 * x.val + 0x10 * y.val) ∧
    encode (.subn x y) = BitVec.ofNat 16 (0x8007 + 0x100 * x.val + 0x10 * y.val) ∧
    (∃ t, exec (.sub x y) s = .next t ∧ OnlyRegsChange [x, vf] s t ∧
      ((t.reg x).toNat : Int) = ((s.reg x).toNat - (s.reg y).toNat : Int) % 256 ∧
      (x ≠ vf → t.reg vf = if (s.reg x).toNat > (s.reg y).toNat then 1#8 else 0#8)) ∧
    (∃ t, exec (.subn x y) s = .next t ∧ OnlyRegsChange [x, vf] s t ∧
      ((t.reg x).toNat : Int) = ((s.reg y).toNat - (s.reg x).toNat : Int) % 256 ∧
      (x ≠ vf → t.reg vf = if (s.reg y).toNat > (s.reg x).toNat then 1#8 else 0#8))

/-- R172, R174: the shifts by one of `V[X]`, whatever `Y` is, with the bit shifted out in VF. -/
def Obligations.ShiftsByOne : Prop :=
  ∀ (s : State) (x y : Reg),
    encode (.shr x y) = BitVec.ofNat 16 (0x8006 + 0x100 * x.val + 0x10 * y.val) ∧
    encode (.shl x y) = BitVec.ofNat 16 (0x800E + 0x100 * x.val + 0x10 * y.val) ∧
    (∃ t, exec (.shr x y) s = .next t ∧ OnlyRegsChange [x, vf] s t ∧
      (t.reg x).toNat = (s.reg x).toNat / 2 ∧
      (x ≠ vf → (t.reg vf).toNat = (s.reg x).toNat % 2)) ∧
    (∃ t, exec (.shl x y) s = .next t ∧ OnlyRegsChange [x, vf] s t ∧
      (t.reg x).toNat = (s.reg x).toNat * 2 % 256 ∧
      (x ≠ vf → (t.reg vf).toNat = (s.reg x).toNat / 128))

/-- R176: `RND` puts a new draw under the mask; the draw is a free value, so the statement holds for every
draw.  That it is `Config.rng` at the model's own counter `draws`, which goes up by one, is the model's
choice (DESIGN CHOICE, log entry 2). -/
def Obligations.RandomIsAMaskedFreeDraw : Prop :=
  ∀ (s : State) (x : Reg) (nn : Byte),
    encode (.rnd x nn) = BitVec.ofNat 16 (0xC000 + 0x100 * x.val + nn.toNat) ∧
    ∃ t, exec (.rnd x nn) s = .next t ∧
      (∀ k, (t.reg x).getLsbD k = ((Config.rng s.draws).getLsbD k && nn.getLsbD k)) ∧
      (t.reg x).toNat ≤ nn.toNat ∧ t.draws = s.draws + 1 ∧
      OnlyRegsChange [x] { s with draws := s.draws + 1 } t

/-! ## The index pointer and memory transfer -/

/-- R200, R201, R202: the instructions that write `I`, and write nothing else. -/
def Obligations.IndexInstructions : Prop :=
  ∀ (s : State) (x : Reg) (nnn : Imm12),
    encode (.ldI nnn) = BitVec.ofNat 16 (0xA000 + nnn.toNat) ∧
    encode (.addI x) = BitVec.ofNat 16 (0xF01E + 0x100 * x.val) ∧
    encode (.ldF x) = BitVec.ofNat 16 (0xF029 + 0x100 * x.val) ∧
    (∃ t, exec (.ldI nnn) s = .next t ∧ t = { s with index := t.index } ∧
      t.index.toNat = nnn.toNat) ∧
    (∃ t, exec (.addI x) s = .next t ∧ t = { s with index := t.index } ∧
      t.index.toNat = (s.index.toNat + (s.reg x).toNat) % 65536) ∧
    (∃ t, exec (.ldF x) s = .next t ∧ t = { s with index := t.index } ∧
      t.index.toNat = 0x050 + 5 * (s.reg x).toNat)

/-- R203 inside memory, and the source's property W3: the three digits, the register they reconstruct, and
no other byte changed. -/
def Obligations.StoreBcdWritesTheThreeDigits : Prop :=
  ∀ (s : State) (x : Reg),
    encode (.ldB x) = BitVec.ofNat 16 (0xF033 + 0x100 * x.val) ∧
    (s.index.toNat + 2 < 4096 →
      ∃ t h d u, exec (.ldB x) s = .next t ∧ t = { s with mem := t.mem } ∧
        t.byteAt (s.indexed 0) = some h ∧ t.byteAt (s.indexed 1) = some d ∧
        t.byteAt (s.indexed 2) = some u ∧
        100 * h.toNat + 10 * d.toNat + u.toNat = (s.reg x).toNat ∧
        h.toNat ≤ 2 ∧ d.toNat ≤ 9 ∧ u.toNat ≤ 9 ∧
        ∀ a, a ≠ s.indexed 0 → a ≠ s.indexed 1 → a ≠ s.indexed 2 → t.byteAt a = s.byteAt a)

/-- R204 inside memory: `V[0]` to `V[X]` stored at `I` to `I + X`, no other byte changed, `I` unchanged. -/
def Obligations.StoreRegistersWritesV0ToVX : Prop :=
  ∀ (s : State) (x : Reg),
    encode (.ldMemVx x) = BitVec.ofNat 16 (0xF055 + 0x100 * x.val) ∧
    (s.index.toNat + x.val < 4096 →
      ∃ t, exec (.ldMemVx x) s = .next t ∧ t = { s with mem := t.mem } ∧
        (∀ k : Reg, k ≤ x → t.byteAt (s.indexed k.val) = some (s.reg k)) ∧
        ∀ a, (∀ k : Reg, k ≤ x → a ≠ s.indexed k.val) → t.byteAt a = s.byteAt a)

/-- R205 inside memory: `V[0]` to `V[X]` loaded from `I` to `I + X`, nothing else changed. -/
def Obligations.LoadRegistersReadsV0ToVX : Prop :=
  ∀ (s : State) (x : Reg),
    encode (.ldVxMem x) = BitVec.ofNat 16 (0xF065 + 0x100 * x.val) ∧
    (s.index.toNat + x.val < 4096 →
      ∃ t, exec (.ldVxMem x) s = .next t ∧
        OnlyRegsChange ((List.finRange 16).filter (fun k => k ≤ x)) s t ∧
        ∀ k : Reg, k ≤ x → s.byteAt (s.indexed k.val) = some (t.reg k))

/-- The source's property W4: `FX55` and then `FX65` into any registers restores `V[0]` to `V[X]`. -/
def Obligations.StoreThenLoadRestoresRegisters : Prop :=
  ∀ (s : State) (x : Reg) (junk : Vector Byte 16), s.index.toNat + x.val < 4096 →
    ∃ t u, exec (.ldMemVx x) s = .next t ∧
      exec (.ldVxMem x) { t with v := junk } = .next u ∧
      (∀ k : Reg, k ≤ x → u.reg k = s.reg k) ∧
      (∀ k : Reg, x < k → u.reg k = junk[k]) ∧ u = { t with v := u.v }

/-- R203, R204, R304, R314: a store that reaches past memory raises `WriteOutOfRange` at its first address
outside; the bytes before it are written (R311, the spec's decision D5), and nothing else changes.  The
`fault_pc` of `PC - 2` is the model's reading of R312 and R112 (DEDUCED, log entry 6). -/
def Obligations.StoresPastMemoryFault : Prop :=
  ∀ (s : State) (x : Reg),
    (4096 ≤ s.index.toNat + 2 →
      ∃ t, exec (.ldB x) s = .next t ∧ t = { s with mem := t.mem, fault := t.fault } ∧
        t.fault = ⟨true, .writeOutOfRange, s.pc - 2#16,
          if s.index.toNat < 4096 then 0x1000#16 else s.index⟩ ∧
        (s.index.toNat < 4096 →
          t.byteAt (s.indexed 0) = some (BitVec.ofNat 8 ((s.reg x).toNat / 100))) ∧
        (s.index.toNat + 1 < 4096 →
          t.byteAt (s.indexed 1) = some (BitVec.ofNat 8 ((s.reg x).toNat / 10 % 10))) ∧
        ∀ a, (∀ k, k < 2 → s.index.toNat + k < 4096 → a ≠ s.indexed k) → t.byteAt a = s.byteAt a) ∧
    (4096 ≤ s.index.toNat + x.val →
      ∃ t, exec (.ldMemVx x) s = .next t ∧ t = { s with mem := t.mem, fault := t.fault } ∧
        t.fault = ⟨true, .writeOutOfRange, s.pc - 2#16,
          if s.index.toNat < 4096 then 0x1000#16 else s.index⟩ ∧
        (∀ k : Reg, k ≤ x → s.index.toNat + k.val < 4096 →
          t.byteAt (s.indexed k.val) = some (s.reg k)) ∧
        ∀ a, (∀ k : Reg, k ≤ x → s.index.toNat + k.val < 4096 → a ≠ s.indexed k.val) →
          t.byteAt a = s.byteAt a)

/-- R205, R304, R314: a load that reaches past memory raises `ReadOutOfRange` at its first address outside;
the registers before it are loaded (R311, the spec's decision D5), and nothing else changes.  The `fault_pc`
of `PC - 2` is the model's reading of R312 and R112 (DEDUCED, log entry 6). -/
def Obligations.LoadPastMemoryFaults : Prop :=
  ∀ (s : State) (x : Reg), 4096 ≤ s.index.toNat + x.val →
    ∃ t, exec (.ldVxMem x) s = .next t ∧ t = { s with v := t.v, fault := t.fault } ∧
      t.fault = ⟨true, .readOutOfRange, s.pc - 2#16,
        if s.index.toNat < 4096 then 0x1000#16 else s.index⟩ ∧
      (∀ k : Reg, s.index.toNat + k.val < 4096 → k ≤ x →
        s.byteAt (s.indexed k.val) = some (t.reg k)) ∧
      ∀ k : Reg, (4096 ≤ s.index.toNat + k.val ∨ x < k) → t.reg k = s.reg k

/-! ## The framebuffer -/

/-- R230: `CLS` turns every pixel off and writes nothing else. -/
def Obligations.ClearScreenTurnsEveryPixelOff : Prop :=
  encode .cls = 0x00E0#16 ∧
  ∀ s : State, ∃ t, exec .cls s = .next t ∧ t = { s with fb := t.fb } ∧
    ∀ px py, t.fb.get px py = false

/-- R231, R232: a sprite that fits is XORed onto the grid at its wrapped origin, and VF says whether a pixel
that was on has been turned off.  The loop over rows and columns comes to this one formula. -/
def Obligations.DrawXorsTheSprite : Prop :=
  ∀ (s : State) (x y : Reg) (n : Nibble),
    encode (.drw x y n) = BitVec.ofNat 16 (0xD000 + 0x100 * x.val + 0x10 * y.val + n.toNat) ∧
    (spriteFits s x y n →
      ∃ t, exec (.drw x y n) s = .next t ∧
        (∀ (px : Fin 64) (py : Fin 32),
          t.fb.get px py = (s.fb.get px py ^^ spriteCovers s x y n px py)) ∧
        ((∃ (px : Fin 64) (py : Fin 32), s.fb.get px py = true ∧ spriteCovers s x y n px py = true) →
          t.reg vf = 1#8) ∧
        ((∀ (px : Fin 64) (py : Fin 32), s.fb.get px py = true → spriteCovers s x y n px py = false) →
          t.reg vf = 0#8) ∧
        OnlyRegsChange [vf] { s with fb := t.fb } t)

/-- R231, R233, R304, R314: the first row that does not fit ends the draw: with `ReadOutOfRange` when its
byte is outside memory, else with `PixelOutOfRange` at its first set bit outside the grid.  What was drawn
before stays (R311, the spec's decision D5): the rows before it and, when its byte could be read, its own
pixels left of that bit.  No other pixel changes, and VF says whether a pixel that was on has been turned
off.  The `fault_pc` of `PC - 2` is the model's reading of R312 and R112 (DEDUCED, log entry 6). -/
def Obligations.DrawFaultsAtTheFirstBadRow : Prop :=
  ∀ (s : State) (x y : Reg) (n : Nibble) (r : Nat), r < n.toNat →
    (∀ r', r' < r → spriteRowFits s x y n r') → ¬ spriteRowFits s x y n r →
    ∃ t, exec (.drw x y n) s = .next t ∧ t = { s with v := t.v, fb := t.fb, fault := t.fault } ∧
      (∀ k, k ≠ vf → t.reg k = s.reg k) ∧
      (4096 ≤ s.index.toNat + r →
        t.fault = ⟨true, .readOutOfRange, s.pc - 2#16, s.indexed r⟩) ∧
      (s.index.toNat + r < 4096 →
        ∀ px, spriteCovers s x y n px ((s.reg y).toNat % 32 + r) = true →
          (64 ≤ px ∨ 32 ≤ (s.reg y).toNat % 32 + r) →
          (∀ px', px' < px → spriteCovers s x y n px' ((s.reg y).toNat % 32 + r) = true →
            px' < 64 ∧ (s.reg y).toNat % 32 + r < 32) →
          t.fault = ⟨true, .pixelOutOfRange, s.pc - 2#16,
            BitVec.ofNat 16 (((s.reg y).toNat % 32 + r) * 256 + px)⟩) ∧
      (∀ (px : Fin 64) (py : Fin 32),
        t.fb.get px py = (s.fb.get px py ^^ drawnBeforeFault s x y n r px py)) ∧
      ((∃ (px : Fin 64) (py : Fin 32),
          s.fb.get px py = true ∧ drawnBeforeFault s x y n r px py = true) → t.reg vf = 1#8) ∧
      ((∀ (px : Fin 64) (py : Fin 32),
          s.fb.get px py = true → drawnBeforeFault s x y n r px py = false) → t.reg vf = 0#8)

/-- R231's double draw, for X and Y other than 15: the second draw restores the framebuffer.  When its VF is
1, namely when the sprite covers a pixel that was off before the first draw, is R231's pseudocode followed
against R231's bracketed remark and vector W5, which give VF = 1 for every non-empty sprite (DEDUCED, log
entry 10).  With X or Y = 15 the first draw writes the coordinate itself, so the second is drawn elsewhere;
SecondDrawFromVfMovesToTheNewVf is the statement for those forms. -/
def Obligations.DrawingTwiceRestoresTheScreen : Prop :=
  ∀ (s : State) (x y : Reg) (n : Nibble), x ≠ vf → y ≠ vf → spriteFits s x y n →
    ∃ t u, exec (.drw x y n) s = .next t ∧ exec (.drw x y n) t = .next u ∧
      u.fb = s.fb ∧ u.fault = s.fault ∧
      (u.reg vf = 1#8 ↔
        ∃ (px : Fin 64) (py : Fin 32), spriteCovers s x y n px py = true ∧ s.fb.get px py = false)

/-- R231's derived remark, read for every screen: that the second draw of a sprite with a set bit always has
VF = 1.  It is expected to FAIL: where every pixel the sprite covers was on, the first draw turns them off
and the second finds none on (log entry 10). -/
def Obligations.SecondDrawAlwaysCollides : Prop :=
  ∀ (s : State) (x y : Reg) (n : Nibble), x ≠ vf → y ≠ vf → spriteFits s x y n →
    (∃ (px : Fin 64) (py : Fin 32), spriteCovers s x y n px py = true) →
    ∃ t u, exec (.drw x y n) s = .next t ∧ exec (.drw x y n) t = .next u ∧ u.reg vf = 1#8

/-! ## The keypad and the timers -/

/-- R250, R251, R306: the key skips, and `KeyOutOfRange` for a register above 15.  The `fault_pc` of
`PC - 2` is the model's reading of R312 and R112 (DEDUCED, log entry 6). -/
def Obligations.KeySkipsReadTheKeypadOrFault : Prop :=
  ∀ (s : State) (x : Reg),
    encode (.skp x) = BitVec.ofNat 16 (0xE09E + 0x100 * x.val) ∧
    encode (.sknp x) = BitVec.ofNat 16 (0xE0A1 + 0x100 * x.val) ∧
    (∀ h : (s.reg x).toNat < 16,
      exec (.skp x) s = .next { s with
        pc := if s.keys[(s.reg x).toNat] then s.pc + 2#16 else s.pc } ∧
      exec (.sknp x) s = .next { s with
        pc := if s.keys[(s.reg x).toNat] then s.pc else s.pc + 2#16 }) ∧
    (16 ≤ (s.reg x).toNat →
      ∃ t, exec (.skp x) s = .next t ∧ exec (.sknp x) s = .next t ∧
        t = { s with fault := t.fault } ∧
        t.fault = ⟨true, .keyOutOfRange, s.pc - 2#16, BitVec.ofNat 16 (s.reg x).toNat⟩)

/-- R253: the key wait takes the lowest key that is down, and with none down takes `PC` back by 2. -/
def Obligations.AwaitKeyTakesTheLowestOrWaits : Prop :=
  ∀ (s : State) (x : Reg),
    encode (.ldVxK x) = BitVec.ofNat 16 (0xF00A + 0x100 * x.val) ∧
    (∀ k : Fin 16, s.keys[k] = true → (∀ j : Fin 16, j < k → s.keys[j] = false) →
      ∃ t, exec (.ldVxK x) s = .next t ∧ (t.reg x).toNat = k.val ∧ OnlyRegsChange [x] s t) ∧
    ((∀ k : Fin 16, s.keys[k] = false) →
      exec (.ldVxK x) s = .next { s with pc := s.pc - 2#16 })

/-- R252, R254, R255: reading the delay timer and setting each timer. -/
def Obligations.TimerInstructions : Prop :=
  ∀ (s : State) (x : Reg),
    encode (.ldVxDt x) = BitVec.ofNat 16 (0xF007 + 0x100 * x.val) ∧
    encode (.ldDtVx x) = BitVec.ofNat 16 (0xF015 + 0x100 * x.val) ∧
    encode (.ldStVx x) = BitVec.ofNat 16 (0xF018 + 0x100 * x.val) ∧
    (∃ t, exec (.ldVxDt x) s = .next t ∧ t.reg x = s.dt ∧ OnlyRegsChange [x] s t) ∧
    exec (.ldDtVx x) s = .next { s with dt := s.reg x } ∧
    exec (.ldStVx x) s = .next { s with st := s.reg x }

/-! ## Whole-machine rules -/

/-- R32: an instruction writes its destination register, and VF as a side effect only if it is one of the six
of R32; every other register is unchanged, also when it raises a fault. -/
def Obligations.RegistersChangeOnlyAsNamed : Prop :=
  ∀ (i : Instr) (s t : State) (r : Reg), exec i s = .next t → r ∉ regsWritten i → t.reg r = s.reg r

/-- Which instructions may change each other part of the state, for every instruction and also when it
raises a fault: memory `FX33` and `FX55`, `I` the three index instructions, the timers `FX15` and `FX18`,
`PC` the control transfers, the skips and the key wait.  That `CXNN` alone changes `draws` is about the
model's own counter (DESIGN CHOICE, log entry 2) and no rule of the spec. -/
def Obligations.OtherStateChangesOnlyAsNamed : Prop :=
  ∀ (i : Instr) (s t : State), exec i s = .next t →
    ((∀ x, i ≠ .ldB x) → (∀ x, i ≠ .ldMemVx x) → ∀ a, t.byteAt a = s.byteAt a) ∧
    ((∀ nnn, i ≠ .ldI nnn) → (∀ x, i ≠ .addI x) → (∀ x, i ≠ .ldF x) → t.index = s.index) ∧
    ((∀ x, i ≠ .ldDtVx x) → t.dt = s.dt) ∧
    ((∀ x, i ≠ .ldStVx x) → t.st = s.st) ∧
    (changesPc i = false → t.pc = s.pc) ∧
    ((∀ x nn, i ≠ .rnd x nn) → t.draws = s.draws) ∧
    t.currentOpcode = s.currentOpcode

/-- R42: the core writes the framebuffer only in `00E0` and `DXYN` and reads it only in `DXYN`. -/
def Obligations.FramebufferTouchedOnlyByDisplay : Prop :=
  ∀ (i : Instr) (s : State), (∀ x y n, i ≠ .drw x y n) →
    ∃ t, exec i s = .next t ∧ (i ≠ .cls → t.fb = s.fb) ∧
      ∀ fb, exec i { s with fb := fb } = .next { t with fb := if i = .cls then t.fb else fb }

/-- R41: no instruction writes the keypad, and only `EX9E`, `EXA1` and `FX0A` read it. -/
def Obligations.KeypadReadOnlyAndOnlyByKeyInstructions : Prop :=
  ∀ (i : Instr) (s : State),
    ∃ t, exec i s = .next t ∧ t.keys = s.keys ∧
      ((∀ x, i ≠ .skp x) → (∀ x, i ≠ .sknp x) → (∀ x, i ≠ .ldVxK x) →
        ∀ keys, exec i { s with keys := keys } = .next { t with keys := keys })

/-- R36: the return stack is used only by `2NNN`, which writes it, and `00EE`, which reads it. -/
def Obligations.StackTouchedOnlyByCallAndReturn : Prop :=
  ∀ (i : Instr) (s : State), (∀ nnn, i ≠ .call nnn) → i ≠ .ret →
    ∃ t, exec i s = .next t ∧ t.stack = s.stack ∧ t.sp = s.sp ∧
      ∀ stack sp, exec i { s with stack := stack, sp := sp } =
        .next { t with stack := stack, sp := sp }

/-- R39, R40: no instruction reads the sound timer or `current_opcode`: with other values in them every
instruction does the same. -/
def Obligations.SoundTimerAndOpcodeReadByNoInstruction : Prop :=
  ∀ (i : Instr) (s : State),
    ∃ t, exec i s = .next t ∧
      (∀ w, exec i { s with currentOpcode := w } = .next { t with currentOpcode := w }) ∧
      ((∀ x, i ≠ .ldStVx x) → ∀ b, exec i { s with st := b } = .next { t with st := b }) ∧
      (∀ x, i = .ldStVx x → ∀ b, exec i { s with st := b } = .next t)

/-! ## The host's ports -/

/-- R319, R320, R321, R324: what the ports return and write.  The keypad write puts the sixteen key states in
`KEY` and returns nothing, the reads change nothing and return the framebuffer, `ST` ≠ 0 and the `FAULT`
record, on a halted core too. -/
def Obligations.HostPortsReadAndWriteAsNamed : Prop :=
  ∀ (s : State) (keys : Vector Bool 16),
    hostCall (.writeKeypad keys) s = (.ok, { s with keys := keys }) ∧
    (∀ k, (hostCall (.writeKeypad keys) s).2.keyDown k = keys[k]) ∧
    hostCall .readFramebuffer s = (.pixels s.fb, s) ∧
    hostCall .readSoundActive s = (.soundActive (decide (0 < s.st.toNat)), s) ∧
    hostCall .readFault s = (.faultRecord s.fault, s)

/-! ## The double draw with VF as a coordinate -/

/-- R231, R114: with X or Y = 15 the coordinate is VF's value before the draw, so a second draw takes it from
the VF the first one wrote, 0 or 1.  It then fits whatever the first drew, and it XORs the sprite at that new
origin, with VF the collision there. -/
def Obligations.SecondDrawFromVfMovesToTheNewVf : Prop :=
  ∀ (s : State) (x y : Reg) (n : Nibble), (x = vf ∨ y = vf) → spriteFits s x y n →
    ∃ t u, exec (.drw x y n) s = .next t ∧ exec (.drw x y n) t = .next u ∧
      (t.reg vf).toNat ≤ 1 ∧ u.fault = s.fault ∧
      (∀ (px : Fin 64) (py : Fin 32), u.fb.get px py =
        (s.fb.get px py ^^ (spriteCovers s x y n px py ^^ spriteCovers t x y n px py))) ∧
      (u.reg vf = if (∃ (px : Fin 64) (py : Fin 32),
          t.fb.get px py = true ∧ spriteCovers t x y n px py = true) then 1#8 else 0#8)
end

