-- ==== Sys2Proof/Laws/Decode.lean ====
section
/-! SUPPORT. The fields of a word packed in each format of 30_encoding.md R103, and the two bytes of a word. -/

namespace Sys2Proof

@[simp] theorem opClass_packFA (c : Nibble) (nnn : Imm12) : opClass (packFA c nnn) = c := by
  apply BitVec.eq_of_toNat_eq
  simp [opClass, packFA, BitVec.extractLsb'_toNat, Nat.shiftRight_eq_div_pow]
  omega

@[simp] theorem fieldNNN_packFA (c : Nibble) (nnn : Imm12) : fieldNNN (packFA c nnn) = nnn := by
  apply BitVec.eq_of_toNat_eq
  simp [fieldNNN, packFA, BitVec.extractLsb'_toNat]
  omega

@[simp] theorem opClass_packFXNN (c : Nibble) (x : Reg) (nn : Byte) : opClass (packFXNN c x nn) = c := by
  apply BitVec.eq_of_toNat_eq
  simp [opClass, packFXNN, BitVec.extractLsb'_toNat, Nat.shiftRight_eq_div_pow]
  omega

@[simp] theorem fieldX_packFXNN (c : Nibble) (x : Reg) (nn : Byte) : fieldX (packFXNN c x nn) = x := by
  apply Fin.eq_of_val_eq
  simp [fieldX, packFXNN, Nat.shiftRight_eq_div_pow]
  omega

@[simp] theorem fieldNN_packFXNN (c : Nibble) (x : Reg) (nn : Byte) : fieldNN (packFXNN c x nn) = nn := by
  apply BitVec.eq_of_toNat_eq
  simp [fieldNN, packFXNN, BitVec.extractLsb'_toNat]
  omega

@[simp] theorem opClass_packFXYN (c : Nibble) (x y : Reg) (n : Nibble) : opClass (packFXYN c x y n) = c := by
  apply BitVec.eq_of_toNat_eq
  simp [opClass, packFXYN, BitVec.extractLsb'_toNat, Nat.shiftRight_eq_div_pow]
  omega

@[simp] theorem fieldX_packFXYN (c : Nibble) (x y : Reg) (n : Nibble) : fieldX (packFXYN c x y n) = x := by
  apply Fin.eq_of_val_eq
  simp [fieldX, packFXYN, Nat.shiftRight_eq_div_pow]
  omega

@[simp] theorem fieldY_packFXYN (c : Nibble) (x y : Reg) (n : Nibble) : fieldY (packFXYN c x y n) = y := by
  apply Fin.eq_of_val_eq
  simp [fieldY, packFXYN, Nat.shiftRight_eq_div_pow]
  omega

@[simp] theorem fieldN_packFXYN (c : Nibble) (x y : Reg) (n : Nibble) : fieldN (packFXYN c x y n) = n := by
  apply BitVec.eq_of_toNat_eq
  simp [fieldN, packFXYN, BitVec.extractLsb'_toNat]
  omega

/-- The two bytes of a word, put together again, are the word (R73). -/
@[simp] theorem wordOf_bytes (w : Word) : wordOf (hiByte w) (loByte w) = w := by
  apply BitVec.eq_of_toNat_eq
  simp [wordOf, hiByte, loByte, BitVec.extractLsb'_toNat, Nat.shiftRight_eq_div_pow]
  omega

/-! ## The three masks of spec/opcode_table.json, as fields -/

theorem and_maskF000 (w : Word) : w &&& 0xF000#16 = (opClass w).setWidth 16 <<< 12 := by
  apply BitVec.eq_of_getLsbD_eq
  intro i hi
  interval_cases i <;> simp [opClass]

theorem and_maskF00F (w : Word) : w &&& 0xF00F#16 = (opClass w).setWidth 16 <<< 12 ||| (fieldN w).setWidth 16 := by
  apply BitVec.eq_of_getLsbD_eq
  intro i hi
  interval_cases i <;> simp [opClass, fieldN]

theorem and_maskF0FF (w : Word) : w &&& 0xF0FF#16 = (opClass w).setWidth 16 <<< 12 ||| (fieldNN w).setWidth 16 := by
  apply BitVec.eq_of_getLsbD_eq
  intro i hi
  interval_cases i <;> simp [opClass, fieldNN]

end Sys2Proof
end

