-- ==== Sys2Proof/Laws/Memory.lean ====
section
/-! SUPPORT. Memory: read after write, and that every memory operation keeps the canonical form. -/

namespace Sys2Proof.Machine

/-! ## What is listed after an update -/

@[simp] theorem Memory.find_insert (m : Memory) (a a' : Nat) (w : Byte) :
    (m.insert a w).find a' = if a' = a then some w else m.find a' := by
  induction m with
  | nil => rfl
  | cons c m ih =>
    obtain ⟨b, u⟩ := c
    unfold Memory.insert
    split
    · rfl
    · split
      · subst b; simp only [Memory.find]; split <;> rfl
      · simp only [Memory.find, ih]; split <;> split <;> first | rfl | omega

@[simp] theorem Memory.find_erase (m : Memory) (a a' : Nat) :
    (m.erase a).find a' = if a' = a then none else m.find a' := by
  induction m with
  | nil => simp [Memory.erase, Memory.find]
  | cons c m ih =>
    obtain ⟨b, u⟩ := c
    rw [Memory.erase] at ih ⊢
    by_cases hb : b = a
    · simp only [List.filter_cons, hb, ne_eq, not_true_eq_false, decide_false, Bool.false_eq_true,
        ↓reduceIte, Memory.find]
      rw [ih]
      split <;> rfl
    · simp only [List.filter_cons, ne_eq, hb, not_false_eq_true, decide_true, ↓reduceIte, Memory.find]
      rw [ih]
      split
      · rw [if_neg (by omega)]
      · rfl

/-! ## Reading -/

theorem Memory.readWith_write (init : Nat → Byte) (m : Memory) (a a' : Nat) (w : Byte) :
    (m.write a w).readWith init a' = if a' = a then w else m.readWith init a' := by
  have key : (m.write a w).find a' =
      if a' = a then (if Memory.unlisted a = some w then none else some w) else m.find a' := by
    unfold Memory.write
    split <;> simp
  unfold Memory.readWith
  rw [key]
  by_cases h : a' = a
  · subst h
    by_cases hu : Memory.unlisted a' = some w <;> simp [hu]
  · simp [h]

theorem Memory.read_write (m : Memory) (a a' : Nat) (w : Byte) :
    (m.write a w).read a' = if a' = a then w else m.read a' :=
  Memory.readWith_write _ m a a' w

@[simp] theorem Memory.read_write_same (m : Memory) (a : Nat) (w : Byte) :
    (m.write a w).read a = w := by
  simp [Memory.read_write]

theorem Memory.read_write_other (m : Memory) {a a' : Nat} (w : Byte) (h : a' ≠ a) :
    (m.write a w).read a' = m.read a' := by
  simp [Memory.read_write, h]

/-- What `writeAll` leaves at every address. -/
theorem Memory.read_writeAll (ws : List Byte) (m : Memory) (a a' : Nat) :
    (m.writeAll a ws).read a' =
      if a ≤ a' then (ws[a' - a]?).getD (m.read a') else m.read a' := by
  induction ws generalizing m a with
  | nil => simp [Memory.writeAll]
  | cons w ws ih =>
    rw [Memory.writeAll, ih, Memory.read_write]
    rcases Nat.lt_trichotomy a' a with h | h | h
    · simp [show ¬ a + 1 ≤ a' by omega, show ¬ a ≤ a' by omega, show ¬ a' = a by omega]
    · subst h
      simp
    · have hk : a' - a = (a' - (a + 1)) + 1 := by omega
      simp [show a + 1 ≤ a' by omega, show a ≤ a' by omega, show ¬ a' = a by omega, hk]

/-! ## The canonical form -/

theorem Memory.mem_insert {m : Memory} {a : Nat} {w : Byte} {c : Host.Cell} (h : c ∈ m.insert a w) :
    c = (a, w) ∨ c ∈ m := by
  induction m with
  | nil => simpa [Memory.insert] using h
  | cons d m ih =>
    obtain ⟨b, u⟩ := d
    unfold Memory.insert at h
    split at h
    · simpa using h
    · split at h
      · rcases List.mem_cons.1 h with h | h
        · exact .inl h
        · exact .inr (List.mem_cons_of_mem _ h)
      · rcases List.mem_cons.1 h with h | h
        · exact .inr (h ▸ List.mem_cons_self)
        · exact (ih h).imp id (List.mem_cons_of_mem _)

theorem Memory.insert_ascending {m : Memory} (h : m.Pairwise (fun c d => c.1 < d.1)) (a : Nat) (w : Byte) :
    (m.insert a w).Pairwise (fun c d => c.1 < d.1) := by
  induction m with
  | nil => simp [Memory.insert]
  | cons d m ih =>
    obtain ⟨b, u⟩ := d
    have ⟨hb, hm⟩ := List.pairwise_cons.1 h
    unfold Memory.insert
    split
    next hlt =>
      refine List.pairwise_cons.2 ⟨fun c hc => ?_, h⟩
      rcases List.mem_cons.1 hc with rfl | hc
      · exact hlt
      · exact Nat.lt_trans hlt (hb c hc)
    next hge =>
      split
      next heq => exact List.pairwise_cons.2 ⟨fun c hc => heq ▸ hb c hc, hm⟩
      next hne =>
        refine List.pairwise_cons.2 ⟨fun c hc => ?_, ih hm⟩
        rcases Memory.mem_insert hc with rfl | hc
        · show b < a
          omega
        · exact hb c hc

theorem Memory.wf_nil : Memory.wf [] := by simp [Memory.wf]

theorem Memory.wf_write {m : Memory} (h : m.wf) {a : Nat} (ha : a < Config.memSize) (w : Byte) :
    (m.write a w).wf := by
  unfold Memory.write
  split
  next _ =>
    exact ⟨h.1.filter _, fun c hc => h.2 c (List.mem_of_mem_filter hc)⟩
  next hu =>
    refine ⟨Memory.insert_ascending h.1 a w, fun c hc => ?_⟩
    rcases Memory.mem_insert hc with rfl | hc
    · exact ⟨ha, hu⟩
    · exact h.2 c hc

theorem Memory.wf_writeAll (ws : List Byte) {m : Memory} (h : m.wf) {a : Nat}
    (ha : a + ws.length ≤ Config.memSize) : (m.writeAll a ws).wf := by
  induction ws generalizing m a with
  | nil => exact h
  | cons w ws ih =>
    simp only [List.length_cons] at ha
    exact ih (Memory.wf_write h (by omega) w) (by omega)

/-- The glyph table fills 0x050 to 0x09F (R78). -/
@[simp] theorem glyphTable_length : glyphTable.length = 80 := rfl

/-- What the reset contents fix from the glyph table on. -/
theorem Memory.unlisted_glyphBase_add (k : Nat) : Memory.unlisted (0x050 + k) = glyphTable[k]? := by
  unfold Memory.unlisted
  rw [if_neg (by simp [Config.glyphBase]),
    show 0x050 + k - Config.glyphBase = k by simp [Config.glyphBase]]

end Sys2Proof.Machine
end

