-- ==== Sys2Proof/Laws/State.lean ====
section
/-! SUPPORT. What each field is after each update of the state, one lemma per field per update. -/

namespace Sys2Proof.Machine

variable (s : State)

/-! ## `setReg` -/

@[simp] theorem State.setReg_v (x : Reg) (b : Byte) : (s.setReg x b).v = s.v.set x b := rfl
@[simp] theorem State.setReg_pc (x : Reg) (b : Byte) : (s.setReg x b).pc = s.pc := rfl
@[simp] theorem State.setReg_index (x : Reg) (b : Byte) : (s.setReg x b).index = s.index := rfl
@[simp] theorem State.setReg_stack (x : Reg) (b : Byte) : (s.setReg x b).stack = s.stack := rfl
@[simp] theorem State.setReg_sp (x : Reg) (b : Byte) : (s.setReg x b).sp = s.sp := rfl
@[simp] theorem State.setReg_dt (x : Reg) (b : Byte) : (s.setReg x b).dt = s.dt := rfl
@[simp] theorem State.setReg_st (x : Reg) (b : Byte) : (s.setReg x b).st = s.st := rfl
@[simp] theorem State.setReg_currentOpcode (x : Reg) (b : Byte) : (s.setReg x b).currentOpcode = s.currentOpcode := rfl
@[simp] theorem State.setReg_keys (x : Reg) (b : Byte) : (s.setReg x b).keys = s.keys := rfl
@[simp] theorem State.setReg_fb (x : Reg) (b : Byte) : (s.setReg x b).fb = s.fb := rfl
@[simp] theorem State.setReg_mem (x : Reg) (b : Byte) : (s.setReg x b).mem = s.mem := rfl
@[simp] theorem State.setReg_fault (x : Reg) (b : Byte) : (s.setReg x b).fault = s.fault := rfl
@[simp] theorem State.setReg_draws (x : Reg) (b : Byte) : (s.setReg x b).draws = s.draws := rfl

/-! ## `setPc` -/

@[simp] theorem State.setPc_v (a : Addr) : (s.setPc a).v = s.v := rfl
@[simp] theorem State.setPc_pc (a : Addr) : (s.setPc a).pc = a := rfl
@[simp] theorem State.setPc_index (a : Addr) : (s.setPc a).index = s.index := rfl
@[simp] theorem State.setPc_stack (a : Addr) : (s.setPc a).stack = s.stack := rfl
@[simp] theorem State.setPc_sp (a : Addr) : (s.setPc a).sp = s.sp := rfl
@[simp] theorem State.setPc_dt (a : Addr) : (s.setPc a).dt = s.dt := rfl
@[simp] theorem State.setPc_st (a : Addr) : (s.setPc a).st = s.st := rfl
@[simp] theorem State.setPc_currentOpcode (a : Addr) : (s.setPc a).currentOpcode = s.currentOpcode := rfl
@[simp] theorem State.setPc_keys (a : Addr) : (s.setPc a).keys = s.keys := rfl
@[simp] theorem State.setPc_fb (a : Addr) : (s.setPc a).fb = s.fb := rfl
@[simp] theorem State.setPc_mem (a : Addr) : (s.setPc a).mem = s.mem := rfl
@[simp] theorem State.setPc_fault (a : Addr) : (s.setPc a).fault = s.fault := rfl
@[simp] theorem State.setPc_draws (a : Addr) : (s.setPc a).draws = s.draws := rfl

/-! ## `setIndex` -/

@[simp] theorem State.setIndex_v (a : Addr) : (s.setIndex a).v = s.v := rfl
@[simp] theorem State.setIndex_pc (a : Addr) : (s.setIndex a).pc = s.pc := rfl
@[simp] theorem State.setIndex_index (a : Addr) : (s.setIndex a).index = a := rfl
@[simp] theorem State.setIndex_stack (a : Addr) : (s.setIndex a).stack = s.stack := rfl
@[simp] theorem State.setIndex_sp (a : Addr) : (s.setIndex a).sp = s.sp := rfl
@[simp] theorem State.setIndex_dt (a : Addr) : (s.setIndex a).dt = s.dt := rfl
@[simp] theorem State.setIndex_st (a : Addr) : (s.setIndex a).st = s.st := rfl
@[simp] theorem State.setIndex_currentOpcode (a : Addr) : (s.setIndex a).currentOpcode = s.currentOpcode := rfl
@[simp] theorem State.setIndex_keys (a : Addr) : (s.setIndex a).keys = s.keys := rfl
@[simp] theorem State.setIndex_fb (a : Addr) : (s.setIndex a).fb = s.fb := rfl
@[simp] theorem State.setIndex_mem (a : Addr) : (s.setIndex a).mem = s.mem := rfl
@[simp] theorem State.setIndex_fault (a : Addr) : (s.setIndex a).fault = s.fault := rfl
@[simp] theorem State.setIndex_draws (a : Addr) : (s.setIndex a).draws = s.draws := rfl

/-! ## `setDt` -/

@[simp] theorem State.setDt_v (b : Byte) : (s.setDt b).v = s.v := rfl
@[simp] theorem State.setDt_pc (b : Byte) : (s.setDt b).pc = s.pc := rfl
@[simp] theorem State.setDt_index (b : Byte) : (s.setDt b).index = s.index := rfl
@[simp] theorem State.setDt_stack (b : Byte) : (s.setDt b).stack = s.stack := rfl
@[simp] theorem State.setDt_sp (b : Byte) : (s.setDt b).sp = s.sp := rfl
@[simp] theorem State.setDt_dt (b : Byte) : (s.setDt b).dt = b := rfl
@[simp] theorem State.setDt_st (b : Byte) : (s.setDt b).st = s.st := rfl
@[simp] theorem State.setDt_currentOpcode (b : Byte) : (s.setDt b).currentOpcode = s.currentOpcode := rfl
@[simp] theorem State.setDt_keys (b : Byte) : (s.setDt b).keys = s.keys := rfl
@[simp] theorem State.setDt_fb (b : Byte) : (s.setDt b).fb = s.fb := rfl
@[simp] theorem State.setDt_mem (b : Byte) : (s.setDt b).mem = s.mem := rfl
@[simp] theorem State.setDt_fault (b : Byte) : (s.setDt b).fault = s.fault := rfl
@[simp] theorem State.setDt_draws (b : Byte) : (s.setDt b).draws = s.draws := rfl

/-! ## `setSt` -/

@[simp] theorem State.setSt_v (b : Byte) : (s.setSt b).v = s.v := rfl
@[simp] theorem State.setSt_pc (b : Byte) : (s.setSt b).pc = s.pc := rfl
@[simp] theorem State.setSt_index (b : Byte) : (s.setSt b).index = s.index := rfl
@[simp] theorem State.setSt_stack (b : Byte) : (s.setSt b).stack = s.stack := rfl
@[simp] theorem State.setSt_sp (b : Byte) : (s.setSt b).sp = s.sp := rfl
@[simp] theorem State.setSt_dt (b : Byte) : (s.setSt b).dt = s.dt := rfl
@[simp] theorem State.setSt_st (b : Byte) : (s.setSt b).st = b := rfl
@[simp] theorem State.setSt_currentOpcode (b : Byte) : (s.setSt b).currentOpcode = s.currentOpcode := rfl
@[simp] theorem State.setSt_keys (b : Byte) : (s.setSt b).keys = s.keys := rfl
@[simp] theorem State.setSt_fb (b : Byte) : (s.setSt b).fb = s.fb := rfl
@[simp] theorem State.setSt_mem (b : Byte) : (s.setSt b).mem = s.mem := rfl
@[simp] theorem State.setSt_fault (b : Byte) : (s.setSt b).fault = s.fault := rfl
@[simp] theorem State.setSt_draws (b : Byte) : (s.setSt b).draws = s.draws := rfl

/-! ## `setFb` -/

@[simp] theorem State.setFb_v (fb : Framebuffer) : (s.setFb fb).v = s.v := rfl
@[simp] theorem State.setFb_pc (fb : Framebuffer) : (s.setFb fb).pc = s.pc := rfl
@[simp] theorem State.setFb_index (fb : Framebuffer) : (s.setFb fb).index = s.index := rfl
@[simp] theorem State.setFb_stack (fb : Framebuffer) : (s.setFb fb).stack = s.stack := rfl
@[simp] theorem State.setFb_sp (fb : Framebuffer) : (s.setFb fb).sp = s.sp := rfl
@[simp] theorem State.setFb_dt (fb : Framebuffer) : (s.setFb fb).dt = s.dt := rfl
@[simp] theorem State.setFb_st (fb : Framebuffer) : (s.setFb fb).st = s.st := rfl
@[simp] theorem State.setFb_currentOpcode (fb : Framebuffer) : (s.setFb fb).currentOpcode = s.currentOpcode := rfl
@[simp] theorem State.setFb_keys (fb : Framebuffer) : (s.setFb fb).keys = s.keys := rfl
@[simp] theorem State.setFb_fb (fb : Framebuffer) : (s.setFb fb).fb = fb := rfl
@[simp] theorem State.setFb_mem (fb : Framebuffer) : (s.setFb fb).mem = s.mem := rfl
@[simp] theorem State.setFb_fault (fb : Framebuffer) : (s.setFb fb).fault = s.fault := rfl
@[simp] theorem State.setFb_draws (fb : Framebuffer) : (s.setFb fb).draws = s.draws := rfl

/-! ## `setMem` -/

@[simp] theorem State.setMem_v (m : Memory) : (s.setMem m).v = s.v := rfl
@[simp] theorem State.setMem_pc (m : Memory) : (s.setMem m).pc = s.pc := rfl
@[simp] theorem State.setMem_index (m : Memory) : (s.setMem m).index = s.index := rfl
@[simp] theorem State.setMem_stack (m : Memory) : (s.setMem m).stack = s.stack := rfl
@[simp] theorem State.setMem_sp (m : Memory) : (s.setMem m).sp = s.sp := rfl
@[simp] theorem State.setMem_dt (m : Memory) : (s.setMem m).dt = s.dt := rfl
@[simp] theorem State.setMem_st (m : Memory) : (s.setMem m).st = s.st := rfl
@[simp] theorem State.setMem_currentOpcode (m : Memory) : (s.setMem m).currentOpcode = s.currentOpcode := rfl
@[simp] theorem State.setMem_keys (m : Memory) : (s.setMem m).keys = s.keys := rfl
@[simp] theorem State.setMem_fb (m : Memory) : (s.setMem m).fb = s.fb := rfl
@[simp] theorem State.setMem_mem (m : Memory) : (s.setMem m).mem = m := rfl
@[simp] theorem State.setMem_fault (m : Memory) : (s.setMem m).fault = s.fault := rfl
@[simp] theorem State.setMem_draws (m : Memory) : (s.setMem m).draws = s.draws := rfl

/-! ## `afterDraw` -/

@[simp] theorem State.afterDraw_v : (s.afterDraw).v = s.v := rfl
@[simp] theorem State.afterDraw_pc : (s.afterDraw).pc = s.pc := rfl
@[simp] theorem State.afterDraw_index : (s.afterDraw).index = s.index := rfl
@[simp] theorem State.afterDraw_stack : (s.afterDraw).stack = s.stack := rfl
@[simp] theorem State.afterDraw_sp : (s.afterDraw).sp = s.sp := rfl
@[simp] theorem State.afterDraw_dt : (s.afterDraw).dt = s.dt := rfl
@[simp] theorem State.afterDraw_st : (s.afterDraw).st = s.st := rfl
@[simp] theorem State.afterDraw_currentOpcode : (s.afterDraw).currentOpcode = s.currentOpcode := rfl
@[simp] theorem State.afterDraw_keys : (s.afterDraw).keys = s.keys := rfl
@[simp] theorem State.afterDraw_fb : (s.afterDraw).fb = s.fb := rfl
@[simp] theorem State.afterDraw_mem : (s.afterDraw).mem = s.mem := rfl
@[simp] theorem State.afterDraw_fault : (s.afterDraw).fault = s.fault := rfl
@[simp] theorem State.afterDraw_draws : (s.afterDraw).draws = s.draws + 1 := rfl

/-! ## `writeKeypad` -/

@[simp] theorem State.writeKeypad_v (keys : Vector Bool 16) : (s.writeKeypad keys).v = s.v := rfl
@[simp] theorem State.writeKeypad_pc (keys : Vector Bool 16) : (s.writeKeypad keys).pc = s.pc := rfl
@[simp] theorem State.writeKeypad_index (keys : Vector Bool 16) : (s.writeKeypad keys).index = s.index := rfl
@[simp] theorem State.writeKeypad_stack (keys : Vector Bool 16) : (s.writeKeypad keys).stack = s.stack := rfl
@[simp] theorem State.writeKeypad_sp (keys : Vector Bool 16) : (s.writeKeypad keys).sp = s.sp := rfl
@[simp] theorem State.writeKeypad_dt (keys : Vector Bool 16) : (s.writeKeypad keys).dt = s.dt := rfl
@[simp] theorem State.writeKeypad_st (keys : Vector Bool 16) : (s.writeKeypad keys).st = s.st := rfl
@[simp] theorem State.writeKeypad_currentOpcode (keys : Vector Bool 16) : (s.writeKeypad keys).currentOpcode = s.currentOpcode := rfl
@[simp] theorem State.writeKeypad_keys (keys : Vector Bool 16) : (s.writeKeypad keys).keys = keys := rfl
@[simp] theorem State.writeKeypad_fb (keys : Vector Bool 16) : (s.writeKeypad keys).fb = s.fb := rfl
@[simp] theorem State.writeKeypad_mem (keys : Vector Bool 16) : (s.writeKeypad keys).mem = s.mem := rfl
@[simp] theorem State.writeKeypad_fault (keys : Vector Bool 16) : (s.writeKeypad keys).fault = s.fault := rfl
@[simp] theorem State.writeKeypad_draws (keys : Vector Bool 16) : (s.writeKeypad keys).draws = s.draws := rfl

/-! ## `takeFault` -/

@[simp] theorem takeFault_v (c : FaultCause) (p i : Addr) :
    (takeFault c p i s).v = s.v := rfl
@[simp] theorem takeFault_pc (c : FaultCause) (p i : Addr) :
    (takeFault c p i s).pc = s.pc := rfl
@[simp] theorem takeFault_index (c : FaultCause) (p i : Addr) :
    (takeFault c p i s).index = s.index := rfl
@[simp] theorem takeFault_stack (c : FaultCause) (p i : Addr) :
    (takeFault c p i s).stack = s.stack := rfl
@[simp] theorem takeFault_sp (c : FaultCause) (p i : Addr) :
    (takeFault c p i s).sp = s.sp := rfl
@[simp] theorem takeFault_dt (c : FaultCause) (p i : Addr) :
    (takeFault c p i s).dt = s.dt := rfl
@[simp] theorem takeFault_st (c : FaultCause) (p i : Addr) :
    (takeFault c p i s).st = s.st := rfl
@[simp] theorem takeFault_currentOpcode (c : FaultCause) (p i : Addr) :
    (takeFault c p i s).currentOpcode = s.currentOpcode := rfl
@[simp] theorem takeFault_keys (c : FaultCause) (p i : Addr) :
    (takeFault c p i s).keys = s.keys := rfl
@[simp] theorem takeFault_fb (c : FaultCause) (p i : Addr) :
    (takeFault c p i s).fb = s.fb := rfl
@[simp] theorem takeFault_mem (c : FaultCause) (p i : Addr) :
    (takeFault c p i s).mem = s.mem := rfl
@[simp] theorem takeFault_fault (c : FaultCause) (p i : Addr) :
    (takeFault c p i s).fault = { halted := true, cause := c, faultPc := p, info := i } := rfl
@[simp] theorem takeFault_draws (c : FaultCause) (p i : Addr) :
    (takeFault c p i s).draws = s.draws := rfl

/-! ## `tickTimers` -/

@[simp] theorem tickTimers_v : (tickTimers s).v = s.v := rfl
@[simp] theorem tickTimers_pc : (tickTimers s).pc = s.pc := rfl
@[simp] theorem tickTimers_index : (tickTimers s).index = s.index := rfl
@[simp] theorem tickTimers_stack : (tickTimers s).stack = s.stack := rfl
@[simp] theorem tickTimers_sp : (tickTimers s).sp = s.sp := rfl
@[simp] theorem tickTimers_dt : (tickTimers s).dt = tickTimer s.dt := rfl
@[simp] theorem tickTimers_st : (tickTimers s).st = tickTimer s.st := rfl
@[simp] theorem tickTimers_currentOpcode : (tickTimers s).currentOpcode = s.currentOpcode := rfl
@[simp] theorem tickTimers_keys : (tickTimers s).keys = s.keys := rfl
@[simp] theorem tickTimers_fb : (tickTimers s).fb = s.fb := rfl
@[simp] theorem tickTimers_mem : (tickTimers s).mem = s.mem := rfl
@[simp] theorem tickTimers_fault : (tickTimers s).fault = s.fault := rfl
@[simp] theorem tickTimers_draws : (tickTimers s).draws = s.draws := rfl

/-! ## `skipIf` -/

@[simp] theorem skipIf_v (c : Bool) : (skipIf c s).v = s.v := by
  cases c <;> rfl
@[simp] theorem skipIf_pc (c : Bool) : (skipIf c s).pc = if c then s.pc + 2#16 else s.pc := by
  cases c <;> rfl
@[simp] theorem skipIf_index (c : Bool) : (skipIf c s).index = s.index := by
  cases c <;> rfl
@[simp] theorem skipIf_stack (c : Bool) : (skipIf c s).stack = s.stack := by
  cases c <;> rfl
@[simp] theorem skipIf_sp (c : Bool) : (skipIf c s).sp = s.sp := by
  cases c <;> rfl
@[simp] theorem skipIf_dt (c : Bool) : (skipIf c s).dt = s.dt := by
  cases c <;> rfl
@[simp] theorem skipIf_st (c : Bool) : (skipIf c s).st = s.st := by
  cases c <;> rfl
@[simp] theorem skipIf_currentOpcode (c : Bool) : (skipIf c s).currentOpcode = s.currentOpcode := by
  cases c <;> rfl
@[simp] theorem skipIf_keys (c : Bool) : (skipIf c s).keys = s.keys := by
  cases c <;> rfl
@[simp] theorem skipIf_fb (c : Bool) : (skipIf c s).fb = s.fb := by
  cases c <;> rfl
@[simp] theorem skipIf_mem (c : Bool) : (skipIf c s).mem = s.mem := by
  cases c <;> rfl
@[simp] theorem skipIf_fault (c : Bool) : (skipIf c s).fault = s.fault := by
  cases c <;> rfl
@[simp] theorem skipIf_draws (c : Bool) : (skipIf c s).draws = s.draws := by
  cases c <;> rfl

/-! ## Reading a register after a write -/

@[simp] theorem State.reg_setReg_same (x : Reg) (b : Byte) : (s.setReg x b).reg x = b := by
  simp [State.reg]

theorem State.reg_setReg (x y : Reg) (b : Byte) :
    (s.setReg x b).reg y = if y = x then b else s.reg y := by
  by_cases h : y = x
  · simp [h]
  · have : x.val ≠ y.val := fun e => h (Fin.ext e.symm)
    simp [State.reg, h, this]

/-- R175: with X = 15 the result is what stays in VF. -/
theorem State.reg_setFlagThenReg (f : Byte) (x y : Reg) (b : Byte) :
    (s.setFlagThenReg f x b).reg y = if y = x then b else if y = vf then f else s.reg y := by
  simp [State.setFlagThenReg, State.reg_setReg]

@[simp] theorem State.reg_setPc (y : Reg) (a : Addr) : (s.setPc a).reg y = s.reg y := rfl
@[simp] theorem State.reg_setIndex (y : Reg) (a : Addr) : (s.setIndex a).reg y = s.reg y := rfl
@[simp] theorem State.reg_setDt (y : Reg) (b : Byte) : (s.setDt b).reg y = s.reg y := rfl
@[simp] theorem State.reg_setSt (y : Reg) (b : Byte) : (s.setSt b).reg y = s.reg y := rfl
@[simp] theorem State.reg_setFb (y : Reg) (fb : Framebuffer) : (s.setFb fb).reg y = s.reg y := rfl
@[simp] theorem State.reg_setMem (y : Reg) (m : Memory) : (s.setMem m).reg y = s.reg y := rfl
@[simp] theorem State.reg_afterDraw (y : Reg) : (s.afterDraw).reg y = s.reg y := rfl
@[simp] theorem reg_takeFault (y : Reg) (c : FaultCause) (p i : Addr) :
    (takeFault c p i s).reg y = s.reg y := rfl
@[simp] theorem reg_skipIf (y : Reg) (c : Bool) : (skipIf c s).reg y = s.reg y := by
  cases c <;> rfl

/-! ## Reading a byte after an update that leaves memory alone -/

@[simp] theorem State.byteAt_setReg (a : Addr) (x : Reg) (b : Byte) : (s.setReg x b).byteAt a = s.byteAt a := rfl
@[simp] theorem State.byteAt_setFlagThenReg (a : Addr) (f : Byte) (x : Reg) (b : Byte) : (s.setFlagThenReg f x b).byteAt a = s.byteAt a := rfl
@[simp] theorem State.byteAt_setPc (a : Addr) (p : Addr) : (s.setPc p).byteAt a = s.byteAt a := rfl
@[simp] theorem State.byteAt_setIndex (a : Addr) (i : Addr) : (s.setIndex i).byteAt a = s.byteAt a := rfl
@[simp] theorem State.byteAt_setDt (a : Addr) (b : Byte) : (s.setDt b).byteAt a = s.byteAt a := rfl
@[simp] theorem State.byteAt_setSt (a : Addr) (b : Byte) : (s.setSt b).byteAt a = s.byteAt a := rfl
@[simp] theorem State.byteAt_setFb (a : Addr) (fb : Framebuffer) : (s.setFb fb).byteAt a = s.byteAt a := rfl
@[simp] theorem State.byteAt_afterDraw (a : Addr) : (s.afterDraw).byteAt a = s.byteAt a := rfl
@[simp] theorem State.byteAt_writeKeypad (a : Addr) (keys : Vector Bool 16) : (s.writeKeypad keys).byteAt a = s.byteAt a := rfl
@[simp] theorem byteAt_takeFault (a : Addr) (c : FaultCause) (p i : Addr) :
    (takeFault c p i s).byteAt a = s.byteAt a := rfl
@[simp] theorem byteAt_tickTimers (a : Addr) : (tickTimers s).byteAt a = s.byteAt a := rfl
@[simp] theorem byteAt_skipIf (a : Addr) (c : Bool) : (skipIf c s).byteAt a = s.byteAt a := by
  cases c <;> rfl

/-! ## Reading a pixel after a write -/

theorem Framebuffer.get_put (fb : Framebuffer) (x x' : Fin 64) (y y' : Fin 32) (b : Bool) :
    (fb.put x y b).get x' y' = if x' = x ∧ y' = y then b else fb.get x' y' := by
  by_cases hy : y' = y
  · subst hy
    by_cases hx : x' = x
    · simp [Framebuffer.get, Framebuffer.put, hx]
    · have : x.val ≠ x'.val := fun e => hx (Fin.ext e.symm)
      simp [Framebuffer.get, Framebuffer.put, hx, this]
  · have : y.val ≠ y'.val := fun e => hy (Fin.ext e.symm)
    simp [Framebuffer.get, Framebuffer.put, hy, this]

@[simp] theorem Framebuffer.get_off (x : Fin 64) (y : Fin 32) : Framebuffer.off.get x y = false := by
  simp [Framebuffer.get, Framebuffer.off]

end Sys2Proof.Machine
end

