-- ==== Sys2Proof/Laws/Ops.lean ====
section
/-! SUPPORT. One lemma per shared operation that says everything it can do; the provers cite these and do
not unfold the operations. -/

namespace Sys2Proof.Machine

/-! ## Attempts and loops -/

@[simp] theorem Attempt.done_andThen (s : State) (f : State → Attempt) : (Attempt.done s).andThen f = f s := rfl

@[simp] theorem Attempt.raised_andThen (s : State) (f : State → Attempt) :
    (Attempt.raised s).andThen f = .raised s := rfl

@[simp] theorem Attempt.state_done (s : State) : (Attempt.done s).state = s := rfl

@[simp] theorem Attempt.state_raised (s : State) : (Attempt.raised s).state = s := rfl

@[simp] theorem Attempt.outcome_eq (r : Attempt) : r.outcome = .next r.state := rfl

@[simp] theorem forEach_nil {α : Type} (f : α → State → Attempt) (s : State) : forEach f [] s = .done s := rfl

@[simp] theorem forEach_cons {α : Type} (f : α → State → Attempt) (a : α) (as : List α) (s : State) :
    forEach f (a :: as) s = (f a s).andThen (forEach f as) := rfl

theorem Attempt.andThen_assoc (r : Attempt) (f g : State → Attempt) :
    (r.andThen f).andThen g = r.andThen fun s => (f s).andThen g := by
  cases r <;> rfl

theorem forEach_append {α : Type} (f : α → State → Attempt) (as bs : List α) (s : State) :
    forEach f (as ++ bs) s = (forEach f as s).andThen (forEach f bs) := by
  induction as generalizing s with
  | nil => rfl
  | cons a as ih =>
    rw [List.cons_append, forEach_cons, forEach_cons, Attempt.andThen_assoc]
    congr 1
    exact funext ih

/-- A loop keeps a relation to its starting state that every run of its body, ended or raised, extends. -/
theorem forEach_keeps {α : Type} {f : α → State → Attempt} {as : List α} {R : State → State → Prop}
    (hrefl : ∀ s, R s s) (htrans : ∀ s t u, R s t → R t u → R s u)
    (hbody : ∀ a ∈ as, ∀ s, R s (f a s).state) (s : State) : R s (forEach f as s).state := by
  induction as generalizing s with
  | nil => exact hrefl s
  | cons a as ih =>
    have h1 := hbody a List.mem_cons_self s
    rw [forEach_cons]
    cases h : f a s with
    | raised t => rw [h] at h1; exact h1
    | done t =>
      rw [h] at h1
      exact htrans _ _ _ h1 (ih (fun b hb => hbody b (List.mem_cons_of_mem _ hb)) t)

/-! ## Faults -/

theorem raise_eq (c : FaultCause) (info : Addr) (s : State) :
    raise c info s = .raised (takeFault c (s.pc - 2#16) info s) := rfl

/-! ## Memory -/

theorem State.byteAt_eq (s : State) (a : Addr) :
    s.byteAt a = if a.toNat < 4096 then some (s.mem.read a.toNat) else none := rfl

theorem State.byteAt_inside (s : State) {a : Addr} (h : a.toNat < 4096) :
    s.byteAt a = some (s.mem.read a.toNat) := by simp [State.byteAt_eq, h]

theorem State.byteAt_outside (s : State) {a : Addr} (h : 4096 ≤ a.toNat) : s.byteAt a = none := by
  simp [State.byteAt_eq, Nat.not_lt.2 h]

/-- A byte's value depends on the memory alone. -/
theorem State.byteAt_congr {s t : State} (h : t.mem = s.mem) (a : Addr) : t.byteAt a = s.byteAt a := by
  simp [State.byteAt_eq, h]

theorem memRead_inside {a : Addr} (h : a.toNat < 4096) (k : Byte → State → Attempt) (s : State) :
    memRead a k s = k (s.mem.read a.toNat) s := by
  simp [memRead, State.byteAt_inside s h]

theorem memRead_outside {a : Addr} (h : 4096 ≤ a.toNat) (k : Byte → State → Attempt) (s : State) :
    memRead a k s = raise .readOutOfRange a s := by
  simp [memRead, State.byteAt_outside s h]

theorem memWrite_inside {a : Addr} (h : a.toNat < 4096) (b : Byte) (s : State) :
    memWrite a b s = .done (s.setMem (s.mem.write a.toNat b)) := by
  simp [memWrite, Config.memSize, h]

theorem memWrite_outside {a : Addr} (h : 4096 ≤ a.toNat) (b : Byte) (s : State) :
    memWrite a b s = raise .writeOutOfRange a s := by
  simp [memWrite, Config.memSize, Nat.not_lt.2 h]

/-! ## Every operation on memory keeps the canonical form -/

theorem memWrite_keeps_wf {s : State} (h : s.mem.wf) (a : Addr) (b : Byte) :
    (memWrite a b s).state.mem.wf := by
  rcases Nat.lt_or_ge a.toNat 4096 with ha | ha
  · rw [memWrite_inside ha]
    exact Memory.wf_write h ha b
  · rw [memWrite_outside ha]
    exact h

theorem State.resetOp_mem (s : State) :
    s.resetOp.mem = s.mem.writeAll Config.glyphBase glyphTable := by simp only [State.resetOp]

theorem resetOp_keeps_wf {s : State} (h : s.mem.wf) : s.resetOp.mem.wf := by
  rw [State.resetOp_mem]
  exact Memory.wf_writeAll _ h (by rw [glyphTable_length]; decide)

theorem storeAtPc_keeps_wf {s : State} (h : s.mem.wf) (bs : List Byte) : (storeAtPc s bs).mem.wf := by
  rcases Nat.lt_or_ge s.pc.toNat Config.memSize with hp | hp
  · exact Memory.wf_writeAll _ h (by simp only [List.length_take]; omega)
  · simpa [storeAtPc, Nat.sub_eq_zero_of_le hp, Memory.writeAll] using h

theorem loadProgram_keeps_wf {s t : State} {image : List Byte} (h : s.mem.wf)
    (hl : s.loadProgram image = .ok t) : t.mem.wf := by
  unfold State.loadProgram at hl
  split at hl
  next hf =>
    obtain rfl := LoadResult.ok.inj hl
    have hlen : image.length ≤ 3584 :=
      of_decide_eq_true hf
    refine Memory.wf_writeAll image h ?_
    show 0x200 + image.length ≤ 4096
    omega
  next => cases hl

/-! ## The stack -/

/-- Everything a push can do. -/
theorem push_cases (a : Addr) (s : State) :
    (∃ h : s.sp.val < 16, push a s =
        .done { s with stack := s.stack.set s.sp.val a, sp := ⟨s.sp.val + 1, by omega⟩ }) ∨
      (s.sp.val = 16 ∧ push a s = raise .stackOverflow 16#16 s) := by
  unfold push
  split
  next h => exact .inl ⟨h, rfl⟩
  next h => exact .inr ⟨by have := s.sp.isLt; omega, rfl⟩

/-- Everything a pop can do. -/
theorem popPc_cases (s : State) :
    (∃ h : 0 < s.sp.val, popPc s =
        .done { s with sp := ⟨s.sp.val - 1, by omega⟩, pc := s.stack[s.sp.val - 1]'(by omega) }) ∨
      (s.sp.val = 0 ∧ popPc s = raise .stackUnderflow 0#16 s) := by
  unfold popPc
  split
  next h => exact .inl ⟨h, rfl⟩
  next h => exact .inr ⟨by omega, rfl⟩

/-! ## The pixels of a sprite -/

theorem drawPixel_inside {px py : Nat} (hx : px < 64) (hy : py < 32) (s : State) :
    drawPixel px py s = .done (flipPixel ⟨px, hx⟩ ⟨py, hy⟩ s) := by
  simp [drawPixel, hx, hy]

theorem drawPixel_outside {px py : Nat} (h : 64 ≤ px ∨ 32 ≤ py) (s : State) :
    drawPixel px py s = raise .pixelOutOfRange (pixelInfo px py) s := by
  rw [drawPixel, dif_neg (by omega)]

/-! ## The keypad -/

theorem keyIndex_of_lt {b : Byte} (h : b.toNat < 16) : keyIndex b = some ⟨b.toNat, h⟩ := by
  simp [keyIndex, h]

theorem keyIndex_of_ge {b : Byte} (h : 16 ≤ b.toNat) : keyIndex b = none := by
  simp [keyIndex, Nat.not_lt.2 h]

/-! ## Fetch, the tick and the step -/

/-- Everything a fetch can do. -/
theorem fetch_cases (s : State) :
    (4096 ≤ s.pc.toNat ∧ fetch s = .raised (takeFault .fetchOutOfRange s.pc s.pc s)) ∨
      (s.pc.toNat = 4095 ∧ fetch s = .raised (takeFault .fetchOutOfRange s.pc 0x1000#16 s)) ∨
      (s.pc.toNat < 4095 ∧ fetch s = .done { s with
        currentOpcode := wordOf (s.mem.read s.pc.toNat) (s.mem.read (s.pc.toNat + 1)),
        pc := s.pc + 2#16 }) := by
  rcases Nat.lt_trichotomy s.pc.toNat 4095 with h | h | h
  · refine .inr (.inr ⟨h, ?_⟩)
    have h1 : (s.pc + 1#16).toNat = s.pc.toNat + 1 := by simp; omega
    simp only [fetch, State.byteAt_inside s (a := s.pc) (by omega),
      State.byteAt_inside s (a := s.pc + 1#16) (by omega), h1]
  · have h0 : s.pc = 0x0FFF#16 := BitVec.eq_of_toNat_eq (by simpa using h)
    refine .inr (.inl ⟨h, ?_⟩)
    simp [fetch, h0, State.byteAt_eq]
  · refine .inl ⟨by omega, ?_⟩
    simp [fetch, State.byteAt_outside s (a := s.pc) (by omega)]

theorem tickTimer_toNat (b : Byte) : (tickTimer b).toNat = b.toNat - 1 := by
  unfold tickTimer
  split
  next h => simp [h]
  next h =>
    have : b.toNat ≠ 0 := fun e => h (BitVec.eq_of_toNat_eq (by simpa using e))
    simp [BitVec.toNat_sub]
    omega

/-- Every instruction answers a next state: a fault it raises is recorded in that state. -/
theorem exec_answers_next (i : Instr) (s : State) : ∃ t, exec i s = .next t := by
  cases i <;> first
    | exact ⟨_, rfl⟩
    | (simp only [exec, execLdVxK]; split <;> exact ⟨_, rfl⟩)

/-- Everything a step can answer: the latched fault of a halted core, a fetch fault, or the execute stage
of the fetched word and the end of the step. -/
theorem step_cases (s : State) :
    (s.fault.halted = true ∧ step s = .fault (latchedFault s)) ∨
    (s.fault.halted = false ∧ ∃ t, fetch s = .raised t ∧ step s = .next t) ∨
    (s.fault.halted = false ∧ ∃ t u, fetch s = .done t ∧ execute t = .next u ∧
      step s = .next (endStep u)) := by
  by_cases hh : s.fault.halted = true
  · exact .inl ⟨hh, by simp [step, hh]⟩
  · have hf : s.fault.halted = false := by simpa using hh
    cases h : fetch s with
    | raised t => exact .inr (.inl ⟨hf, t, rfl, by simp [step, hf, h]⟩)
    | done t =>
      have ⟨u, hu⟩ : ∃ u, execute t = .next u := by
        unfold execute
        split
        · exact exec_answers_next _ t
        · exact ⟨t, rfl⟩
      exact .inr (.inr ⟨hf, t, u, rfl, hu, by simp [step, hf, h, hu]⟩)

end Sys2Proof.Machine
end

