-- ==== Sys2Proof/Laws/PerInstr.lean ====
section
/-! SUPPORT. The family EncodedInRow: the word of an instruction lies in the instruction's own row of
spec/opcode_table.json (30_encoding.md R104), one lemma per constructor. -/

namespace Sys2Proof.Laws.EncodedInRow

/-- The bits of the encoded word under the row's mask are the row's match. -/
def Statement (i : Instr) : Prop := encode i &&& (opcodeRow i).1 = (opcodeRow i).2

theorem cls : Statement .cls := by
  unfold Statement
  decide


theorem ret : Statement .ret := by
  unfold Statement
  decide


theorem jp (nnn : Imm12) : Statement (.jp nnn) := by
  simp [Statement, opcodeRow, encode, and_maskF000]

theorem call (nnn : Imm12) : Statement (.call nnn) := by
  simp [Statement, opcodeRow, encode, and_maskF000]

theorem seImm (x : Reg) (nn : Byte) : Statement (.seImm x nn) := by
  simp [Statement, opcodeRow, encode, and_maskF000]

theorem sneImm (x : Reg) (nn : Byte) : Statement (.sneImm x nn) := by
  simp [Statement, opcodeRow, encode, and_maskF000]

theorem seReg (x : Reg) (y : Reg) : Statement (.seReg x y) := by
  simp [Statement, opcodeRow, encode, and_maskF00F]

theorem ldImm (x : Reg) (nn : Byte) : Statement (.ldImm x nn) := by
  simp [Statement, opcodeRow, encode, and_maskF000]

theorem addImm (x : Reg) (nn : Byte) : Statement (.addImm x nn) := by
  simp [Statement, opcodeRow, encode, and_maskF000]

theorem ldReg (x : Reg) (y : Reg) : Statement (.ldReg x y) := by
  simp [Statement, opcodeRow, encode, and_maskF00F]

theorem orReg (x : Reg) (y : Reg) : Statement (.orReg x y) := by
  simp [Statement, opcodeRow, encode, and_maskF00F]

theorem andReg (x : Reg) (y : Reg) : Statement (.andReg x y) := by
  simp [Statement, opcodeRow, encode, and_maskF00F]

theorem xorReg (x : Reg) (y : Reg) : Statement (.xorReg x y) := by
  simp [Statement, opcodeRow, encode, and_maskF00F]

theorem addReg (x : Reg) (y : Reg) : Statement (.addReg x y) := by
  simp [Statement, opcodeRow, encode, and_maskF00F]

theorem sub (x : Reg) (y : Reg) : Statement (.sub x y) := by
  simp [Statement, opcodeRow, encode, and_maskF00F]

theorem shr (x : Reg) (y : Reg) : Statement (.shr x y) := by
  simp [Statement, opcodeRow, encode, and_maskF00F]

theorem subn (x : Reg) (y : Reg) : Statement (.subn x y) := by
  simp [Statement, opcodeRow, encode, and_maskF00F]

theorem shl (x : Reg) (y : Reg) : Statement (.shl x y) := by
  simp [Statement, opcodeRow, encode, and_maskF00F]

theorem sneReg (x : Reg) (y : Reg) : Statement (.sneReg x y) := by
  simp [Statement, opcodeRow, encode, and_maskF00F]

theorem ldI (nnn : Imm12) : Statement (.ldI nnn) := by
  simp [Statement, opcodeRow, encode, and_maskF000]

theorem jpV0 (nnn : Imm12) : Statement (.jpV0 nnn) := by
  simp [Statement, opcodeRow, encode, and_maskF000]

theorem rnd (x : Reg) (nn : Byte) : Statement (.rnd x nn) := by
  simp [Statement, opcodeRow, encode, and_maskF000]

theorem drw (x : Reg) (y : Reg) (n : Nibble) : Statement (.drw x y n) := by
  simp [Statement, opcodeRow, encode, and_maskF000]

theorem skp (x : Reg) : Statement (.skp x) := by
  simp [Statement, opcodeRow, encode, and_maskF0FF]

theorem sknp (x : Reg) : Statement (.sknp x) := by
  simp [Statement, opcodeRow, encode, and_maskF0FF]

theorem ldVxDt (x : Reg) : Statement (.ldVxDt x) := by
  simp [Statement, opcodeRow, encode, and_maskF0FF]

theorem ldVxK (x : Reg) : Statement (.ldVxK x) := by
  simp [Statement, opcodeRow, encode, and_maskF0FF]

theorem ldDtVx (x : Reg) : Statement (.ldDtVx x) := by
  simp [Statement, opcodeRow, encode, and_maskF0FF]

theorem ldStVx (x : Reg) : Statement (.ldStVx x) := by
  simp [Statement, opcodeRow, encode, and_maskF0FF]

theorem addI (x : Reg) : Statement (.addI x) := by
  simp [Statement, opcodeRow, encode, and_maskF0FF]

theorem ldF (x : Reg) : Statement (.ldF x) := by
  simp [Statement, opcodeRow, encode, and_maskF0FF]

theorem ldB (x : Reg) : Statement (.ldB x) := by
  simp [Statement, opcodeRow, encode, and_maskF0FF]

theorem ldMemVx (x : Reg) : Statement (.ldMemVx x) := by
  simp [Statement, opcodeRow, encode, and_maskF0FF]

theorem ldVxMem (x : Reg) : Statement (.ldVxMem x) := by
  simp [Statement, opcodeRow, encode, and_maskF0FF]

end Sys2Proof.Laws.EncodedInRow
end

