-- ==== Sys2Proof/Tests/Slice0.lean ====
section
/-! SUPPORT. The model's own tests.  Expected results are the vectors of 95_test_vectors.md, named by their
number there, or the examples of the rules; the witnesses show that the hypotheses of the statements can be
met. -/

namespace Sys2Proof.Tests

open Sys2Proof.Machine

/-! ## Helpers -/

/-- `s` with some registers set. -/
def setRegs (l : List (Reg × Byte)) (s : State) : State := l.foldl (fun t p => t.setReg p.1 p.2) s

/-- `s` with a word stored at its `PC`. -/
def placed (w : Word) (s : State) : State := s.withFetchWord 16 w.toNat

/-- A field of the state one step leaves, when it leaves one. -/
def afterStep {α : Type} (s : State) (f : State → α) : Option α :=
  match step s with
  | .next t => some (f t)
  | .fault _ => none
  | .refused _ => none

/-- The same for one word run from `s`. -/
def afterWord {α : Type} (w : Word) (s : State) (f : State → α) : Option α := afterStep (placed w s) f

/-- The reset state with some registers set. -/
def regs (l : List (Reg × Byte)) : State := setRegs l State.reset

/-- The reset state with `I` set. -/
def idx (a : Addr) : State := State.reset.setIndex a

/-- The first five pixels of a row. -/
def rowStart (fb : Framebuffer) (y : Fin 32) : List Bool := fb[y].toList.take 5

/-- The last four pixels of a row. -/
def rowEnd (fb : Framebuffer) (y : Fin 32) : List Bool := fb[y].toList.drop 60

/-! ## Well-formedness: an ill-formed term for each check -/

/-- L2, L3: 3584 bytes fit and 3585 do not. -/
theorem test_imageFits : imageFits (List.replicate 3584 0#8) = true ∧
    imageFits (List.replicate 3585 0#8) = false := by
  simp only [imageFits, List.length_replicate]
  decide

/-- 1792 lines are 3584 bytes and fit; 1793 do not. -/
theorem test_asmFits : asmFits (List.replicate 1792 (.dw 0#16)) = true ∧
    asmFits (List.replicate 1793 (.dw 0#16)) = false := by
  simp only [asmFits, List.length_replicate]
  decide

/-! ## Decoding: a word of every row, written out from the patterns of 30_encoding.md R104 -/

theorem test_decode_control :
    decode 0x00EE#16 = .instr .ret ∧ decode 0x12F0#16 = .instr (.jp 0x2F0#12) ∧
    decode 0x220A#16 = .instr (.call 0x20A#12) ∧ decode 0x3342#16 = .instr (.seImm 3 0x42#8) ∧
    decode 0x4342#16 = .instr (.sneImm 3 0x42#8) ∧ decode 0x5120#16 = .instr (.seReg 1 2) ∧
    decode 0x9120#16 = .instr (.sneReg 1 2) ∧ decode 0xB300#16 = .instr (.jpV0 0x300#12) := by decide

theorem test_decode_alu :
    decode 0x6A02#16 = .instr (.ldImm 10 0x02#8) ∧ decode 0x7102#16 = .instr (.addImm 1 0x02#8) ∧
    decode 0x8120#16 = .instr (.ldReg 1 2) ∧ decode 0x8121#16 = .instr (.orReg 1 2) ∧
    decode 0x8122#16 = .instr (.andReg 1 2) ∧ decode 0x8123#16 = .instr (.xorReg 1 2) ∧
    decode 0x8014#16 = .instr (.addReg 0 1) ∧ decode 0x8215#16 = .instr (.sub 2 1) ∧
    decode 0x8306#16 = .instr (.shr 3 0) ∧ decode 0x8127#16 = .instr (.subn 1 2) ∧
    decode 0x821E#16 = .instr (.shl 2 1) ∧ decode 0xC10F#16 = .instr (.rnd 1 0x0F#8) := by decide

theorem test_decode_index :
    decode 0xA300#16 = .instr (.ldI 0x300#12) ∧ decode 0xF21E#16 = .instr (.addI 2) ∧
    decode 0xF029#16 = .instr (.ldF 0) ∧ decode 0xFA33#16 = .instr (.ldB 10) ∧
    decode 0xF255#16 = .instr (.ldMemVx 2) ∧ decode 0xF265#16 = .instr (.ldVxMem 2) := by decide

theorem test_decode_display_and_input :
    decode 0x00E0#16 = .instr .cls ∧ decode 0xD125#16 = .instr (.drw 1 2 5#4) ∧
    decode 0xE19E#16 = .instr (.skp 1) ∧ decode 0xE1A1#16 = .instr (.sknp 1) ∧
    decode 0xF107#16 = .instr (.ldVxDt 1) ∧ decode 0xF20A#16 = .instr (.ldVxK 2) ∧
    decode 0xF015#16 = .instr (.ldDtVx 0) ∧ decode 0xF018#16 = .instr (.ldStVx 0) := by decide

/-- R105, R106: fixed digits must match (vectors S6 to S10). -/
theorem test_decode_unrecognized :
    decode 0x0000#16 = .unrecognized 0x0000#16 ∧ decode 0x0123#16 = .unrecognized 0x0123#16 ∧
    decode 0x5121#16 = .unrecognized 0x5121#16 ∧ decode 0x9121#16 = .unrecognized 0x9121#16 ∧
    decode 0x8128#16 = .unrecognized 0x8128#16 ∧ decode 0x812F#16 = .unrecognized 0x812F#16 ∧
    decode 0xE1FF#16 = .unrecognized 0xE1FF#16 ∧ decode 0xF100#16 = .unrecognized 0xF100#16 := by decide

theorem test_decodeTableWord : decodeTableWord 16 0xD125 = some (.drw 1 2 5#4) ∧
    decodeTableWord 16 0x00EE = some .ret ∧ decodeTableWord 8 0x12E0 = some .cls ∧
    decodeTableWord 16 0x0123 = none := by decide

/-- A byte sequence shorter than an instruction is refused by name. -/
theorem test_decodeBytes_truncated : decodeBytes [0x6A#8] = .truncated := by decide

/-- R115: a second register left out is encoded as Y = 0; the image of program P1. -/
theorem test_assemble : encodeLine (.shrShort 3) = 0x8306#16 ∧ encodeLine (.shlShort 2) = 0x820E#16 ∧
    assemble [.instr (.ldImm 10 2#8), .dw 0x6B03#16] = [0x6A#8, 0x02#8, 0x6B#8, 0x03#8] := by decide

/-! ## The step -/

/-- W10, S1. -/
theorem test_step_fetches_high_byte_first :
    afterWord 0x6A02 State.reset (fun t => (t.currentOpcode, t.reg 10, t.pc)) =
      some (0x6A02#16, 0x02#8, 0x202#16) := by decide

/-- S2: an odd `PC`. -/
theorem test_step_odd_pc :
    afterWord 0x6011 (State.reset.setPc 0x201#16) (fun t => (t.reg 0, t.pc)) =
      some (0x11#8, 0x203#16) := by decide

/-- S4. -/
theorem test_step_fetch_fault :
    afterStep { State.reset with pc := 0xFFF#16, dt := 5#8 } (fun t => (t.fault, t.pc, t.dt)) =
      some (⟨true, .fetchOutOfRange, 0x0FFF#16, 0x1000#16⟩, 0xFFF#16, 5#8) := by decide

/-- S6. -/
theorem test_step_no_op :
    afterWord 0x0000 (State.reset.setDt 5#8) (fun t => (t.pc, t.dt, t.st)) =
      some (0x202#16, 4#8, 0#8) := by decide

/-- S11, R313. -/
theorem test_step_halted :
    (match step { State.reset with fault := ⟨true, .stackOverflow, 0x200#16, 16#16⟩ } with
      | .fault r => some r
      | _ => none) = some (.reported .stackOverflow 0x200#16 16#16) := by decide

/-! ## Control transfer -/

/-- C1. -/
theorem test_ret_underflow :
    afterWord 0x00EE State.reset (fun t => (t.fault, t.sp)) =
      some (⟨true, .stackUnderflow, 0x200#16, 0#16⟩, 0) := by decide

/-- C2. -/
theorem test_ret :
    afterWord 0x00EE { State.reset with sp := 1, stack := State.reset.stack.set 0 0x0206#16 }
      (fun t => (t.pc, t.sp, t.stack[0])) = some (0x206#16, 0, 0x206#16) := by decide

/-- C3. -/
theorem test_jp : afterWord 0x12F0 State.reset State.pc = some 0x2F0#16 := by decide

/-- C5. -/
theorem test_call :
    afterWord 0x2300 State.reset (fun t => (t.pc, t.sp, t.stack[0])) =
      some (0x300#16, 1, 0x202#16) := by decide

/-- C6. -/
theorem test_call_overflow :
    afterWord 0x2300 { State.reset with sp := 16 } (fun t => (t.fault, t.sp, t.stack)) =
      some (⟨true, .stackOverflow, 0x200#16, 16#16⟩, 16, State.reset.stack) := by decide

/-- C7, C8, C9, C10. -/
theorem test_skip_immediate :
    afterWord 0x3342 (regs [(3, 0x42#8)]) State.pc = some 0x204#16 ∧
    afterWord 0x3342 (regs [(3, 0x41#8)]) State.pc = some 0x202#16 ∧
    afterWord 0x4342 (regs [(3, 0x41#8)]) State.pc = some 0x204#16 ∧
    afterWord 0x4342 (regs [(3, 0x42#8)]) State.pc = some 0x202#16 := by decide

/-- C11, C13. -/
theorem test_skip_register :
    afterWord 0x5120 (regs [(1, 7#8), (2, 7#8)]) State.pc = some 0x204#16 ∧
    afterWord 0x9120 (regs [(1, 7#8), (2, 8#8)]) State.pc = some 0x204#16 := by decide

/-- C16. -/
theorem test_jpV0 : afterWord 0xBFFF (regs [(0, 0xFF#8)]) State.pc = some 0x10FE#16 := by decide

/-! ## Register loads and the ALU -/

/-- A2, A3. -/
theorem test_addImm :
    afterWord 0x7001 (regs [(0, 0xFF#8)]) (fun t => (t.reg 0, t.reg vf)) = some (0#8, 0#8) ∧
    afterWord 0x70FF State.reset (fun t => (t.reg 0, t.reg vf)) = some (0xFF#8, 0#8) := by decide

/-- A4, A5, A6, A7. -/
theorem test_bitwise :
    afterWord 0x8010 (regs [(1, 0x5A#8)]) (fun t => t.reg 0) = some 0x5A#8 ∧
    afterWord 0x8011 (regs [(0, 0xF0#8), (1, 0x0F#8), (15, 0x5A#8)]) (fun t => (t.reg 0, t.reg 15)) =
      some (0xFF#8, 0x5A#8) ∧
    afterWord 0x8012 (regs [(0, 0xF0#8), (1, 0x3C#8)]) (fun t => t.reg 0) = some 0x30#8 ∧
    afterWord 0x8013 (regs [(0, 0xF0#8), (1, 0x3C#8)]) (fun t => t.reg 0) = some 0xCC#8 := by decide

/-- A9, A13, A14: the result wins in VF, and the old VF is the operand. -/
theorem test_addReg :
    afterWord 0x8014 (regs [(0, 0xF0#8), (1, 0x20#8)]) (fun t => (t.reg 0, t.reg 15)) =
      some (0x10#8, 1#8) ∧
    afterWord 0x8F04 (regs [(15, 5#8), (0, 3#8)]) (fun t => t.reg 15) = some 8#8 ∧
    afterWord 0x80F4 (regs [(0, 0x10#8), (15, 0xFF#8)]) (fun t => (t.reg 0, t.reg 15)) =
      some (0x0F#8, 1#8) := by decide

/-- A15, A16, A17. -/
theorem test_sub :
    afterWord 0x8015 (regs [(0, 0x30#8), (1, 0x20#8)]) (fun t => (t.reg 0, t.reg 15)) =
      some (0x10#8, 1#8) ∧
    afterWord 0x8015 (regs [(0, 0x20#8), (1, 0x20#8), (15, 1#8)]) (fun t => (t.reg 0, t.reg 15)) =
      some (0#8, 0#8) ∧
    afterWord 0x8015 (regs [(0, 0x10#8), (1, 0x20#8), (15, 1#8)]) (fun t => (t.reg 0, t.reg 15)) =
      some (0xF0#8, 0#8) := by decide

/-- A23, A25. -/
theorem test_subn :
    afterWord 0x8017 (regs [(0, 0x20#8), (1, 0x30#8)]) (fun t => (t.reg 0, t.reg 15)) =
      some (0x10#8, 1#8) ∧
    afterWord 0x8017 (regs [(0, 0x30#8), (1, 0x20#8), (15, 1#8)]) (fun t => (t.reg 0, t.reg 15)) =
      some (0xF0#8, 0#8) := by decide

/-- A19, A20, A26, A28. -/
theorem test_shifts :
    afterWord 0x8016 (regs [(0, 5#8), (1, 0xFF#8)]) (fun t => (t.reg 0, t.reg 15)) = some (2#8, 1#8) ∧
    afterWord 0x8016 (regs [(0, 0x80#8), (15, 1#8)]) (fun t => (t.reg 0, t.reg 15)) =
      some (0x40#8, 0#8) ∧
    afterWord 0x801E (regs [(0, 0x81#8), (1, 0xFF#8)]) (fun t => (t.reg 0, t.reg 15)) =
      some (2#8, 1#8) ∧
    afterWord 0x8F0E (regs [(15, 0x81#8)]) (fun t => t.reg 15) = some 2#8 := by decide

/-- A30: under mask 0 the result is 0 whatever the draw is. -/
theorem test_rnd_mask_zero (s : State) : (match execRnd 0 0#8 s with
    | .next t => some (t.reg 0)
    | _ => none) = some 0#8 := by
  simp [execRnd]

/-! ## The index pointer and memory -/

/-- M1, M2, M3. -/
theorem test_index :
    afterWord 0xA123 State.reset State.index = some 0x123#16 ∧
    afterWord 0xF11E ((regs [(1, 1#8)]).setIndex 0xFFFF#16) State.index = some 0#16 ∧
    afterWord 0xF11E ((regs [(1, 1#8)]).setIndex 0x0FFF#16) (fun t => (t.index, t.fault.halted)) =
      some (0x1000#16, false) := by decide

/-- M5, M7. -/
theorem test_ldF :
    afterWord 0xF029 (regs [(0, 0x0F#8)]) State.index = some 0x9B#16 ∧
    afterWord 0xF029 (regs [(0, 0xFF#8)]) State.index = some 0x54B#16 := by decide

/-- R203's example, and M11. -/
theorem test_ldB :
    afterWord 0xFA33 ((regs [(10, 0x9C#8)]).setIndex 0x300#16)
      (fun t => (t.byteAt 0x300#16, t.byteAt 0x301#16, t.byteAt 0x302#16)) =
      some (some 1#8, some 5#8, some 6#8) ∧
    afterWord 0xF033 ((regs [(0, 0xFF#8)]).setIndex 0xFFE#16)
      (fun t => (t.byteAt 0xFFE#16, t.byteAt 0xFFF#16, t.fault)) =
      some (some 2#8, some 5#8, ⟨true, .writeOutOfRange, 0x200#16, 0x1000#16⟩) := by decide

/-- R204's example, and M14. -/
theorem test_ldMemVx :
    afterWord 0xF255 ((regs [(0, 0x11#8), (1, 0x22#8), (2, 0x33#8), (3, 0x44#8)]).setIndex 0x300#16)
      (fun t => (t.mem, t.index)) =
      some ([(0x200, 0xF2#8), (0x201, 0x55#8), (0x300, 0x11#8), (0x301, 0x22#8), (0x302, 0x33#8)],
        0x300#16) ∧
    afterWord 0xFF55 ((regs [(7, 0x77#8), (8, 0x88#8)]).setIndex 0xFF8#16)
      (fun t => (t.byteAt 0xFFF#16, t.fault.info)) = some (some 0x77#8, 0x1000#16) := by decide

/-- Writing the reset contents back removes the entry, so the memory is again the one reset left. -/
theorem test_store_reset_contents :
    (match execLdMemVx 0 ((regs [(0, 0xF0#8)]).setIndex 0x050#16) with
      | .next t => some t.mem
      | _ => none) = some [] := by decide

/-- R205's example, and M16. -/
theorem test_ldVxMem :
    afterWord 0xF265 { idx 0x300#16 with mem := [(0x300, 1#8), (0x301, 5#8), (0x302, 6#8)] }
      (fun t => (t.reg 0, t.reg 1, t.reg 2, t.reg 3)) = some (1#8, 5#8, 6#8, 0#8) ∧
    afterWord 0xF165 { idx 0xFFF#16 with mem := [(0xFFF, 0xAB#8)] } (fun t => (t.reg 0, t.fault)) =
      some (0xAB#8, ⟨true, .readOutOfRange, 0x200#16, 0x1000#16⟩) := by decide

/-! ## The framebuffer -/

/-- D1. -/
theorem test_cls :
    afterWord 0x00E0 { regs [(15, 0x5A#8)] with fb := Framebuffer.off.put 3 4 true }
      (fun t => (rowStart t.fb 4, t.reg 15)) =
      some ([false, false, false, false, false], 0x5A#8) := by decide

/-- D6: glyph 0 at the wrapped origin (0, 1). -/
theorem test_drw_glyph :
    afterWord 0xD015 ((regs [(0, 64#8), (1, 33#8)]).setIndex 0x050#16)
      (fun t => (rowStart t.fb 0, rowStart t.fb 1, rowStart t.fb 2, t.reg 15)) =
      some ([false, false, false, false, false], [true, true, true, true, false],
        [true, false, false, true, false], 0#8) := by decide

/-- D5: three pixels are drawn, and then the fourth lies outside. -/
theorem test_drw_pixel_fault :
    afterWord 0xD125 ((regs [(1, 61#8)]).setIndex 0x082#16) (fun t => (rowEnd t.fb 0, t.fault)) =
      some ([false, true, true, true], ⟨true, .pixelOutOfRange, 0x200#16, 0x0040#16⟩) := by decide

/-- D7's info, and D11 with a collision. -/
theorem test_drw_edges :
    afterWord 0xD015 ((regs [(1, 30#8)]).setIndex 0x050#16) (fun t => t.fault.info) =
      some 0x2000#16 ∧
    afterWord 0xD011 { setRegs [(0, 63#8), (1, 31#8)] (idx 0x300#16) with
        mem := [(0x300, 0x80#8)], fb := Framebuffer.off.put 63 31 true }
      (fun t => (rowEnd t.fb 31, t.reg 15)) = some ([false, false, false, false], 1#8) := by decide

/-! ## The keypad and the timers -/

/-- K1, K2, K3, K4. -/
theorem test_key_skips :
    afterWord 0xE19E ((regs [(1, 5#8)]).writeKeypad (Vector.replicate 16 false |>.set 5 true))
      State.pc = some 0x204#16 ∧
    afterWord 0xE19E (regs [(1, 5#8)]) State.pc = some 0x202#16 ∧
    afterWord 0xE1A1 (regs [(1, 5#8)]) State.pc = some 0x204#16 ∧
    afterWord 0xE1A1 ((regs [(1, 5#8)]).writeKeypad (Vector.replicate 16 false |>.set 5 true))
      State.pc = some 0x202#16 := by decide

/-- K5. -/
theorem test_key_fault :
    afterWord 0xE19E (regs [(1, 16#8)]) (fun t => (t.fault, t.pc)) =
      some (⟨true, .keyOutOfRange, 0x200#16, 16#16⟩, 0x202#16) := by decide

/-- K6, K7. -/
theorem test_await_key :
    afterWord 0xF20A (State.reset.writeKeypad (Vector.replicate 16 false |>.set 9 true |>.set 3 true))
      (fun t => (t.reg 2, t.pc)) = some (3#8, 0x202#16) ∧
    afterWord 0xF20A ((regs [(2, 0x77#8)]).setDt 2#8) (fun t => (t.reg 2, t.pc, t.dt)) =
      some (0x77#8, 0x200#16, 1#8) := by decide

/-- K10, K13, K14, K15. -/
theorem test_timers :
    afterWord 0xF107 (State.reset.setDt 2#8) (fun t => (t.reg 1, t.dt)) = some (2#8, 1#8) ∧
    afterWord 0xF015 (regs [(0, 3#8)]) State.dt = some 2#8 ∧
    afterWord 0xF018 (regs [(0, 1#8)]) (fun t => (t.st, t.soundActive)) = some (0#8, false) ∧
    afterWord 0xF018 (regs [(0, 2#8)]) (fun t => (t.st, t.soundActive)) = some (1#8, true) := by decide

/-! ## Reset, load and the host -/

/-- L1: a reset of a used and halted core. -/
theorem test_reset :
    (fun t : State => (t.reg 3, t.sp, t.pc, t.fault)) (State.resetOp { regs [(3, 7#8)] with
        sp := 4, fault := ⟨true, .keyOutOfRange, 0x200#16, 16#16⟩ }) =
      (0#8, 0, 0x200#16, FaultRecord.clear) := by decide

/-- W9, at the ends of the glyph table (the bytes of I1 at 0x050 and 0x09F). -/
theorem test_reset_glyphs :
    State.reset.byteAt 0x050#16 = some 0xF0#8 ∧ State.reset.byteAt 0x09F#16 = some 0x80#8 := by decide

/-- L4: an empty load writes nothing. -/
theorem test_load_program :
    (match State.reset.loadProgram [] with
      | .ok t => some t.mem
      | .tooLarge _ => none) = some [] ∧
    (match State.reset.loadProgram [0x22#8, 0x00#8] with
      | .ok t => some t.mem
      | .tooLarge _ => none) = some [(0x200, 0x22#8), (0x201, 0x00#8)] := by decide

/-- L5: a byte of a program stays through a reset. -/
theorem test_reset_keeps_program (s : State) : s.resetOp.mem.read 0x200 = s.mem.read 0x200 := by
  simp [State.resetOp, Memory.read_writeAll, Config.glyphBase]

/-- R312: what the host sees of a step that faults. -/
theorem test_host_step_fault :
    (hostCall .step (placed 0x00EE State.reset)).1 = .stepFault .stackUnderflow 0x200#16 0#16 := by
  decide

/-! ## Witnesses: states and operands that meet the hypotheses of the statements -/

/-- A running state whose next step raises `StackUnderflow`, with the timers running. -/
def faulting : State := placed 0x00EE { State.reset with dt := 2#8, st := 3#8 }

/-- A halted state. -/
def halted : State := { State.reset with fault := ⟨true, .keyOutOfRange, 0x200#16, 16#16⟩ }

theorem witness_EncodeOfDecode : decode 0xFF65#16 = .instr (.ldVxMem 15) := by decide

theorem witness_DecodeFollowsOpcodeTable_row :
    0xFF65#16 &&& (opcodeRow (.ldVxMem 0)).1 = (opcodeRow (.ldVxMem 0)).2 := by decide

theorem witness_DecodeFollowsOpcodeTable_none (j : Instr) :
    0x5121#16 &&& (opcodeRow j).1 ≠ (opcodeRow j).2 := by
  cases j <;> (simp only [opcodeRow]; decide)

theorem witness_LoadProgram : (List.replicate 3584 1#8).length ≤ 3584 ∧
    3584 < (List.replicate 3585 1#8).length := by
  simp only [List.length_replicate]
  decide

theorem witness_HaltedCore : halted.fault.halted = true := rfl

theorem witness_FaultingStep : faulting.Running ∧
    afterStep faulting (fun t => t.fault.halted) = some true := by decide

theorem witness_TimersCountCompletedSteps : (placed 0xF015 (regs [(0, 9#8)])).Running ∧
    afterWord 0xF015 (regs [(0, 9#8)]) (fun t => t.fault.halted) = some false := by decide

theorem witness_Inv : State.reset.mem.wf ∧ State.reset.fault = FaultRecord.clear ∧
    afterWord 0xF055 (idx 0x300#16) (fun t => decide t.mem.wf) = some true := by decide

theorem witness_MemoryPrimitives : (0xFFF#16).toNat < 4096 ∧ 4096 ≤ (0x1000#16).toNat := by decide

theorem witness_CanonicalMemories : Memory.wf [(0x000, 5#8), (0x050, 0#8), (0xFFF, 9#8)] := by decide

theorem witness_StoredWordIsFetched : (State.reset.setPc 0xFFE#16).pc.toNat < 4095 := by decide

theorem witness_StepRunsTheDecodedInstruction :
    (placed 0xA300 State.reset).Running ∧
    (placed 0xA300 State.reset).byteAt 0x200#16 = some 0xA3#8 ∧
    (placed 0xA300 State.reset).byteAt 0x201#16 = some 0x00#8 ∧
    decode (wordOf 0xA3#8 0x00#8) = .instr (.ldI 0x300#12) := by decide

theorem witness_UnrecognizedWord : (placed 0x0123 State.reset).Running ∧
    (placed 0x0123 State.reset).pc.toNat < 4095 ∧
    decode (placed 0x0123 State.reset).fetchedWord =
      .unrecognized (placed 0x0123 State.reset).fetchedWord := by decide

theorem witness_FetchOutsideMemory : (State.reset.setPc 0xFFF#16).Running ∧
    4095 ≤ (State.reset.setPc 0xFFF#16).pc.toNat ∧
    4096 ≤ (State.reset.setPc 0x1000#16).pc.toNat := by decide

theorem witness_InstructionsFault : State.reset.Running ∧
    (match exec .ret State.reset with
      | .next t => t.fault.halted
      | _ => false) = true := by decide

theorem witness_Return : 0 < ({ State.reset with sp := 16 } : State).sp.val ∧ State.reset.sp.val = 0 := by
  decide

theorem witness_Call : ({ State.reset with sp := 15 } : State).sp.val < 16 ∧
    ({ State.reset with sp := 16 } : State).sp.val = 16 := by decide

theorem witness_SixteenCalls : State.reset.Running ∧ State.reset.sp.val = 0 ∧
    (List.replicate 16 (0x200#12 : Imm12)).length ≤ 16 ∧
    (List.replicate 17 (0x200#12 : Imm12)).length = 17 := by decide

theorem witness_TransfersInside : (idx 0xFFD#16).index.toNat + 2 < 4096 ∧
    (idx 0xFF0#16).index.toNat + (15 : Reg).val < 4096 := by decide

theorem witness_TransfersPastMemory : 4096 ≤ (idx 0xFFE#16).index.toNat + 2 ∧
    (idx 0xFFE#16).index.toNat + 1 < 4096 ∧ 4096 ≤ (idx 0xFFFF#16).index.toNat + (0 : Reg).val ∧
    4096 ≤ (idx 0xFFF#16).index.toNat + (1 : Reg).val := by decide

/-- A state with the byte 80 as sprite at 0xFFF, drawn at (63, 31), where the pixel is `on`. -/
def corner (on : Bool) : State :=
  { setRegs [(0, 63#8), (1, 31#8)] (idx 0xFFF#16) with
    mem := [(0xFFF, 0x80#8)], fb := Framebuffer.off.put 63 31 on }

theorem corner_byte (on : Bool) : (corner on).mem.read 0xFFF = 0x80#8 := by cases on <;> decide

/-- A one-row sprite of the byte 80 has the one pixel at its origin. -/
theorem corner_covers (on : Bool) (px : Nat) : spriteCovers (corner on) 0 1 1#4 px 31 = true → px = 63 := by
  have h0 : (corner on).reg 0 = 63#8 := by cases on <;> decide
  have h1 : (corner on).reg 1 = 31#8 := by cases on <;> decide
  have hi : (corner on).index = 0xFFF#16 := by cases on <;> decide
  simp only [spriteCovers, h0, h1, hi]
  intro h
  simp only [BitVec.reduceToNat, Nat.reduceMod, Nat.reduceAdd, Bool.and_eq_true, decide_eq_true_eq,
    Nat.sub_self, Nat.add_zero, corner_byte] at h
  obtain ⟨⟨h2, h3, -⟩, h4⟩ := h
  have hp : px - 63 < 8 := by omega
  generalize hk : px - 63 = k at *
  have : k = 0 := by
    revert h4
    interval_cases k <;> decide
  omega

theorem witness_spriteFits (on : Bool) : spriteFits (corner on) 0 1 1#4 := by
  intro r hr
  have hr0 : r = 0 := by simpa using hr
  subst hr0
  have h1 : (corner on).reg 1 = 31#8 := by cases on <;> decide
  have hi : (corner on).index = 0xFFF#16 := by cases on <;> decide
  refine ⟨by rw [hi]; decide, fun px h => ?_⟩
  rw [h1] at h ⊢
  have := corner_covers on px h
  exact ⟨by omega, by decide⟩

/-- The clause on VF = 1: a covered pixel is on. -/
theorem witness_DrawXorsTheSprite_collision :
    (corner true).fb.get 63 31 = true ∧ spriteCovers (corner true) 0 1 1#4 63 31 = true := by decide

/-- The clause on VF = 0: no pixel is on. -/
theorem witness_DrawXorsTheSprite_clear (px : Fin 64) (py : Fin 32) :
    (corner false).fb.get px py = false := by
  simp [corner, Framebuffer.get_put]

theorem witness_DrawingTwice : (0 : Reg) ≠ vf ∧ (1 : Reg) ≠ vf ∧
    spriteCovers (corner false) 0 1 1#4 63 31 = true ∧ (corner false).fb.get 63 31 = false := by decide

/-- A state with a full row byte as sprite, drawn with VF = 0 as both coordinates over a pixel that is on. -/
def vfOrigin : State :=
  { idx 0x300#16 with mem := [(0x300, 0xFF#8)], fb := Framebuffer.off.put 0 0 true }

theorem witness_SecondDrawFromVf : spriteFits vfOrigin vf vf 1#4 := by
  intro r hr
  have hr0 : r = 0 := by simpa using hr
  subst hr0
  have hv : vfOrigin.reg vf = 0#8 := by decide
  refine ⟨by decide, fun px h => ?_⟩
  simp only [spriteCovers, hv, Bool.and_eq_true, decide_eq_true_eq, BitVec.reduceToNat, Nat.reduceMod] at h ⊢
  omega

/-- R231: the first draw turns the pixel at the origin off, so VF becomes 1 and the second draw starts at
(1, 1). -/
theorem test_second_draw_from_vf :
    (match exec (.drw vf vf 1#4) vfOrigin with
      | .next t => match exec (.drw vf vf 1#4) t with
        | .next u => some (rowStart u.fb 0, rowStart u.fb 1, u.reg vf)
        | _ => none
      | _ => none) =
      some ([false, true, true, true, true], [false, true, true, true, true], 0#8) := by decide

/-- A draw whose row 0 cannot be read, with `I` = 0x1000. -/
theorem witness_DrawFaults_read : 0 < (1#4 : Nibble).toNat ∧
    ¬ spriteRowFits (idx 0x1000#16) 0 0 1#4 0 ∧ 4096 ≤ (idx 0x1000#16).index.toNat + 0 := by
  refine ⟨by decide, fun h => absurd h.1 (by decide), by decide⟩

/-- A draw whose row 0 has its first set bit at column 64 (vector D12). -/
def columnSixtyFour : State :=
  { setRegs [(0, 57#8)] (idx 0x300#16) with mem := [(0x300, 0x01#8)] }

theorem witness_DrawFaults_pixel : 0 < (1#4 : Nibble).toNat ∧
    ¬ spriteRowFits columnSixtyFour 0 1 1#4 0 ∧ columnSixtyFour.index.toNat + 0 < 4096 ∧
    spriteCovers columnSixtyFour 0 1 1#4 64 0 = true ∧
    (∀ px', px' < 64 → spriteCovers columnSixtyFour 0 1 1#4 px' 0 = false) := by
  refine ⟨by decide, fun h => ?_, by decide, by decide, by decide⟩
  exact absurd (h.2 64 (by decide)).1 (by decide)

/-- The same draw with a second set bit, at column 57, where the pixel is on. -/
def columnsWithCollision : State :=
  { setRegs [(0, 57#8)] (idx 0x300#16) with
    mem := [(0x300, 0x81#8)], fb := Framebuffer.off.put 57 0 true }

/-- The clause on VF = 1: a pixel that was on is drawn before the fault. -/
theorem witness_DrawFaults_collision : ¬ spriteRowFits columnsWithCollision 0 1 1#4 0 ∧
    columnsWithCollision.fb.get 57 0 = true ∧
    drawnBeforeFault columnsWithCollision 0 1 1#4 0 57 0 = true := by
  refine ⟨fun h => ?_, by decide, by decide⟩
  exact absurd (h.2 64 (by decide)).1 (by decide)

/-- The clause on VF = 0: no pixel is on. -/
theorem witness_DrawFaults_clear (px : Fin 64) (py : Fin 32) : columnSixtyFour.fb.get px py = false := by
  simp [columnSixtyFour, setRegs, idx, State.reset, Framebuffer.get]

/-- R231, R311: the collision at column 57 comes before the fault at column 64, and both its effects stay. -/
theorem test_drw_fault_keeps_earlier :
    (match exec (.drw 0 1 1#4) columnsWithCollision with
      | .next t => some (t.fb.get 57 0, t.reg vf, t.fault.info)
      | _ => none) = some (false, 1#8, 0x0040#16) := by decide

/-- `FX33`, `FX65` and `DXYN` on the first address outside memory, and a covered pixel outside the grid. -/
theorem witness_InstructionsFault_transfers :
    4096 ≤ ((idx 0xFFE#16).indexed 2).toNat ∧ 4096 ≤ ((idx 0xFF1#16).indexed 15).toNat ∧
    spriteCovers columnSixtyFour 0 1 1#4 64 0 = true := by decide

theorem witness_KeySkips : ((regs [(1, 15#8)]).reg 1).toNat < 16 ∧
    16 ≤ ((regs [(1, 16#8)]).reg 1).toNat := by decide

theorem witness_AwaitKey :
    ((Vector.replicate 16 false).set 15 true)[(15 : Fin 16)] = true ∧
    (∀ j : Fin 16, j < 15 → ((Vector.replicate 16 false).set 15 true)[j] = false) ∧
    (∀ k : Fin 16, State.reset.keys[k] = false) := by decide

theorem witness_RegistersChange : (1 : Reg) ∉ regsWritten (.addReg 0 1) ∧
    (match exec (.addReg 0 1) State.reset with
      | .next _ => true
      | _ => false) = true := by decide

theorem witness_notVf : (0 : Reg) ≠ vf := by decide

theorem witness_otherInstructions : (∀ x y n, Instr.cls ≠ .drw x y n) ∧
    (∀ nnn, Instr.cls ≠ .call nnn) ∧ Instr.cls ≠ .ret ∧ (∀ x, Instr.cls ≠ .skp x) ∧
    (∀ x, Instr.cls ≠ .sknp x) ∧ (∀ x, Instr.cls ≠ .ldVxK x) ∧ (∀ x, Instr.cls ≠ .ldStVx x) ∧
    (∀ x, Instr.cls ≠ .ldB x) ∧ (∀ x, Instr.cls ≠ .ldMemVx x) := by
  simp

end Sys2Proof.Tests
end

section
/-! The data-access primitives (20_memory.md R72): reading a byte back after a write, and the two faults of
an address outside memory. -/

namespace Sys2Proof.Machine

/-! ## Reading a byte after a write to memory -/

theorem State.byteAt_setMem_write_same (s : State) {a : Addr} (h : a.toNat < 4096) (b : Byte) :
    (s.setMem (s.mem.write a.toNat b)).byteAt a = some b := by
  rw [State.byteAt_inside _ h, State.setMem_mem, Memory.read_write_same]

theorem State.byteAt_setMem_write_other (s : State) {a a' : Addr} (h : a' ≠ a) (b : Byte) :
    (s.setMem (s.mem.write a.toNat b)).byteAt a' = s.byteAt a' := by
  have hne : a'.toNat ≠ a.toNat := fun e => h (BitVec.eq_of_toNat_eq e)
  rw [State.byteAt_eq, State.byteAt_eq, State.setMem_mem, Memory.read_write_other _ _ hne]

theorem memRead_of_byteAt {s : State} {a : Addr} {b : Byte} (h : s.byteAt a = some b)
    (k : Byte → State → Attempt) : memRead a k s = k b s := by
  rw [memRead, h]

/-! ## The obligation -/

/-- Settles O11: inside memory by the read-after-write rules above, outside it by the model's own rules for
the two faults. -/
theorem memoryPrimitivesReadBackOrFault : Obligations.MemoryPrimitivesReadBackOrFault := by
  intro s a b
  refine ⟨fun hin => ?_, fun hout => ⟨?_, fun k => ?_⟩⟩
  · have hsame := s.byteAt_setMem_write_same hin b
    exact ⟨s.setMem (s.mem.write a.toNat b), memWrite_inside hin b s, rfl, hsame,
      fun _ hne => s.byteAt_setMem_write_other hne b, memRead_of_byteAt hsame _⟩
  · rw [memWrite_outside hout, raise_eq, takeFault]
  · rw [memRead_outside hout, raise_eq, takeFault]

end Sys2Proof.Machine
end

section
/-! What an instruction leaves, as a function of the state it starts from. -/

namespace Sys2Proof.Machine

/-- The state instruction `i` leaves.  The two arms that keep `s` are never taken (`exec_eq_next`). -/
def execState (i : Instr) (s : State) : State :=
  match exec i s with
  | .next t => t
  | .fault _ => s
  | .refused _ => s

theorem exec_eq_next (i : Instr) (s : State) : exec i s = .next (execState i s) := by
  obtain ⟨t, ht⟩ := exec_answers_next i s
  rw [execState, ht]

theorem eq_execState {i : Instr} {s t : State} (h : exec i s = .next t) : t = execState i s := by
  rw [exec_eq_next] at h
  exact (Host.Outcome.next.inj h).symm

/-- Everything turning a pixel over can do: VF is set, or no register changes. -/
theorem flipPixel_cases (px : Fin 64) (py : Fin 32) (s : State) :
    (s.fb.get px py = true ∧ flipPixel px py s = (s.setReg vf 1#8).setFb (s.fb.put px py false)) ∨
      (s.fb.get px py = false ∧ flipPixel px py s = s.setFb (s.fb.put px py true)) := by
  cases h : s.fb.get px py <;> simp [flipPixel, h]

theorem execState_ldVxK_of_some {x k : Reg} {s : State} (h : s.firstKeyDown = some k) :
    execState (.ldVxK x) s = s.setReg x (BitVec.ofNat 8 k.val) := by
  simp only [execState, exec, execLdVxK, h]

theorem execState_ldVxK_of_none {x : Reg} {s : State} (h : s.firstKeyDown = none) :
    execState (.ldVxK x) s = s.setPc (s.pc - 2#16) := by
  simp only [execState, exec, execLdVxK, h]

theorem mem_regsThrough {k x : Reg} : k ∈ regsThrough x ↔ k ≤ x := by
  simp only [regsThrough, List.mem_take_iff_getElem, List.getElem_finRange, List.length_finRange]
  constructor
  · rintro ⟨j, hj, rfl⟩
    exact Fin.le_def.2 (by simp; omega)
  · intro h
    exact ⟨k.val, by have := Fin.le_def.1 h; omega, rfl⟩

end Sys2Proof.Machine
end

section
/-! The invariant (10_state.md R44, 60_exceptions.md R301, R303).  Within the execute stage the invariant
alone is not kept, since what a fault records depends on the address of the instruction.  `Executing` adds
that this address is one a fetch has succeeded at, and every loop body of the pseudocode keeps it. -/

namespace Sys2Proof.Machine

theorem State.Inv.of_same {s t : State} (hs : s.Inv) (hmem : t.mem = s.mem) (hfault : t.fault = s.fault) :
    t.Inv := by
  unfold State.Inv
  rw [hmem, hfault]
  exact hs

/-- Settles O6: nothing is listed in memory and `FAULT` is clear. -/
theorem resetStateMeetsTheInvariant : Obligations.ResetStateMeetsTheInvariant :=
  ⟨Memory.wf_nil, .inl ⟨rfl, rfl⟩⟩

/-- The invariant, in the execute stage of an instruction that was fetched from inside memory. -/
structure Executing (s : State) : Prop where
  inv : s.Inv
  fetched : (executingPc s).toNat < 4095

namespace Executing

variable {s t : State}

theorem of_same (hs : Executing s) (hmem : t.mem = s.mem) (hfault : t.fault = s.fault)
    (hpc : t.pc = s.pc) : Executing t where
  inv := hs.inv.of_same hmem hfault
  fetched := by rw [executingPc, hpc]; exact hs.fetched

/-- A raised fault is lawful when its info is one R301 lists for the cause. -/
theorem raise (hs : Executing s) (c : FaultCause) (info : Addr)
    (hfits : FaultRecord.infoFits ⟨true, c, executingPc s, info⟩) :
    Executing (raise c info s).state where
  inv := ⟨hs.inv.1, .inr ⟨rfl, hfits⟩⟩
  fetched := hs.fetched

theorem memWrite (hs : Executing s) (a : Addr) (b : Byte) : Executing (memWrite a b s).state := by
  rcases Nat.lt_or_ge a.toNat 4096 with ha | ha
  · rw [memWrite_inside ha]
    exact ⟨⟨Memory.wf_write hs.inv.1 ha b, hs.inv.2⟩, hs.fetched⟩
  · rw [memWrite_outside ha]
    exact hs.raise .writeOutOfRange a ⟨hs.fetched, ha⟩

theorem memRead (hs : Executing s) {a : Addr} {k : Byte → State → Attempt}
    (hk : ∀ b, Executing (k b s).state) : Executing (memRead a k s).state := by
  rcases Nat.lt_or_ge a.toNat 4096 with ha | ha
  · rw [memRead_inside ha]
    exact hk _
  · rw [memRead_outside ha]
    exact hs.raise .readOutOfRange a ⟨hs.fetched, ha⟩

theorem forEach {α : Type} {f : α → State → Attempt} {as : List α} (hs : Executing s)
    (hbody : ∀ a ∈ as, ∀ u, Executing u → Executing (f a u).state) :
    Executing (forEach f as s).state :=
  forEach_keeps (R := fun u w => Executing u → Executing w) (fun _ => id)
    (fun _ _ _ huv hvw hu => hvw (huv hu)) hbody s hs

/-! ## The loop bodies -/

theorem flipPixel (hs : Executing s) (px : Fin 64) (py : Fin 32) : Executing (flipPixel px py s) := by
  rcases flipPixel_cases px py s with ⟨-, h⟩ | ⟨-, h⟩ <;> rw [h] <;> exact hs.of_same rfl rfl rfl

/-- R233: a sprite starts inside the grid and is 8 columns by at most 15 rows, so a pixel outside the grid
is still within the bounds. -/
theorem drawPixel (hs : Executing s) {px py : Nat} (hx : px ≤ 70) (hy : py ≤ 46) :
    Executing (drawPixel px py s).state := by
  by_cases h : px < 64 ∧ py < 32
  · rw [drawPixel_inside h.1 h.2]
    exact hs.flipPixel _ _
  · have hout : 64 ≤ px ∨ 32 ≤ py := by omega
    have hinfo : (pixelInfo px py).toNat = py * 256 + px := by
      rw [pixelInfo, BitVec.toNat_ofNat]
      omega
    rw [drawPixel_outside hout]
    refine hs.raise .pixelOutOfRange _ ⟨hs.fetched, ?_⟩
    rw [hinfo]
    omega

theorem drawRow (hs : Executing s) {ox oy r : Nat} (hx : ox < 64) (hy : oy < 32) (hr : r < 15) :
    Executing (drawRow ox oy r s).state := by
  refine hs.memRead fun row => hs.forEach fun c hc u hu => ?_
  have hc : c < 8 := List.mem_range.1 hc
  unfold drawColumn
  split
  · exact hu.drawPixel (by omega) (by omega)
  · exact hu

theorem loadReg (hs : Executing s) (k : Reg) : Executing (loadReg k s).state :=
  hs.memRead fun _ => hs.of_same rfl rfl rfl

/-! ## The other parts of an instruction that can fault -/

theorem skipOnKey_inv (hs : Executing s) (down : Bool) (x : Reg) : (skipOnKey down x s).state.Inv := by
  rcases Nat.lt_or_ge (s.reg x).toNat 16 with h | h
  · simp only [skipOnKey, keyIndex_of_lt h]
    exact hs.inv.of_same (skipIf_mem ..) (skipIf_fault ..)
  · have hinfo : (zextByte (s.reg x)).toNat = (s.reg x).toNat := by
      rw [zextByte, BitVec.toNat_setWidth_of_le (by decide)]
    simp only [skipOnKey, keyIndex_of_ge h]
    refine (hs.raise .keyOutOfRange _ ⟨hs.fetched, ?_⟩).inv
    rw [hinfo]
    omega

theorem popPc_inv (hs : Executing s) : (popPc s).state.Inv := by
  rcases popPc_cases s with ⟨_, h⟩ | ⟨-, h⟩ <;> rw [h]
  · exact hs.inv.of_same rfl rfl
  · exact (hs.raise .stackUnderflow _ ⟨hs.fetched, rfl⟩).inv

theorem call_inv (hs : Executing s) (nnn : Imm12) : (execState (.call nnn) s).Inv := by
  show ((push s.pc s).andThen fun t => .done (t.setPc (zextAddr nnn))).state.Inv
  rcases push_cases s.pc s with ⟨_, h⟩ | ⟨-, h⟩ <;> rw [h]
  · exact hs.inv.of_same rfl rfl
  · exact (hs.raise .stackOverflow _ ⟨hs.fetched, rfl⟩).inv

theorem draw (hs : Executing s) (x y : Reg) (n : Nibble) : Executing (execState (.drw x y n) s) := by
  have hcleared : Executing (s.setReg vf 0#8) := hs.of_same rfl rfl rfl
  refine hcleared.forEach fun r hr u hu => hu.drawRow ?_ ?_ ?_
  · exact Nat.mod_lt _ (by decide)
  · exact Nat.mod_lt _ (by decide)
  · have := List.mem_range.1 hr
    omega

/-! ## The instructions and the step -/

theorem execState_inv (hs : Executing s) (i : Instr) : (execState i s).Inv := by
  cases i with
  | ret => exact hs.popPc_inv
  | call nnn => exact hs.call_inv nnn
  | drw x y n => exact (hs.draw x y n).inv
  | ldB x => exact (hs.forEach fun d _ u hu => hu.memWrite _ _).inv
  | ldMemVx x => exact (hs.forEach fun k _ u hu => hu.memWrite _ _).inv
  | ldVxMem x => exact (hs.forEach fun k _ u hu => hu.loadReg k).inv
  | skp x => exact hs.skipOnKey_inv true x
  | sknp x => exact hs.skipOnKey_inv false x
  | seImm | sneImm | seReg | sneReg => exact hs.inv.of_same (skipIf_mem ..) (skipIf_fault ..)
  | ldVxK x =>
    cases h : s.firstKeyDown with
    | none => rw [execState_ldVxK_of_none h]; exact hs.inv.of_same rfl rfl
    | some k => rw [execState_ldVxK_of_some h]; exact hs.inv.of_same rfl rfl
  | _ => exact hs.inv.of_same rfl rfl

theorem execute_inv (hs : Executing s) (h : execute s = .next t) : t.Inv := by
  unfold execute at h
  split at h
  next i _ => exact eq_execState h ▸ hs.execState_inv i
  next => exact Host.Outcome.next.inj h ▸ hs.inv

end Executing

theorem fetch_raised_inv {s t : State} (hs : s.Inv) (h : fetch s = .raised t) : t.Inv := by
  rcases fetch_cases s with ⟨hpc, hf⟩ | ⟨hpc, hf⟩ | ⟨-, hf⟩ <;> rw [hf] at h
  · obtain rfl := Attempt.raised.inj h
    exact ⟨hs.1, .inr ⟨rfl, Nat.le_of_succ_le hpc, (Nat.max_eq_right hpc).symm⟩⟩
  · obtain rfl := Attempt.raised.inj h
    exact ⟨hs.1, .inr ⟨rfl, hpc.ge, by rw [takeFault_fault, hpc]; rfl⟩⟩
  · cases h

theorem fetch_done_executing {s t : State} (hs : s.Inv) (h : fetch s = .done t) : Executing t := by
  rcases fetch_cases s with ⟨-, hf⟩ | ⟨-, hf⟩ | ⟨hpc, hf⟩ <;> rw [hf] at h
  · cases h
  · cases h
  · obtain rfl := Attempt.done.inj h
    refine ⟨hs, ?_⟩
    show (s.pc + 2#16 - 2#16).toNat < 4095
    rwa [BitVec.add_sub_cancel]

theorem endStep_inv {s : State} (hs : s.Inv) : (endStep s).Inv := by
  unfold endStep
  split
  · exact hs
  · exact hs.of_same rfl rfl

/-- Settles O18: a fetch fault is lawful, and a completed fetch starts the execute stage in `Executing`. -/
theorem stepKeepsTheInvariant : Obligations.StepKeepsTheInvariant := by
  intro s t hs hstep
  rcases step_cases s with ⟨-, h⟩ | ⟨-, u, hfetch, h⟩ | ⟨-, u, w, hfetch, hexec, h⟩ <;>
    rw [h] at hstep
  · cases hstep
  · exact Host.Outcome.next.inj hstep ▸ fetch_raised_inv hs hfetch
  · exact Host.Outcome.next.inj hstep ▸ endStep_inv ((fetch_done_executing hs hfetch).execute_inv hexec)

end Sys2Proof.Machine
end

section
/-! What an instruction may write (10_state.md R32 to R42).  A `Footprint` names the parts of the state that
may change; being `Within` one is reflexive and transitive, so a loop stays within it when its body does. -/

namespace Sys2Proof.Machine

/-- The parts of the state that may change.  The keypad and `current_opcode` are not among them, and the
`FAULT` record always may. -/
structure Footprint where
  regs : List Reg
  pc : Bool
  index : Bool
  stack : Bool
  dt : Bool
  st : Bool
  fb : Bool
  mem : Bool
  draws : Bool

/-- `t` is `s` outside the footprint and the `FAULT` record. -/
structure Within (f : Footprint) (s t : State) : Prop where
  regs : ∀ r, r ∉ f.regs → t.reg r = s.reg r
  pc : f.pc = false → t.pc = s.pc
  index : f.index = false → t.index = s.index
  stack : f.stack = false → t.stack = s.stack ∧ t.sp = s.sp
  dt : f.dt = false → t.dt = s.dt
  st : f.st = false → t.st = s.st
  fb : f.fb = false → t.fb = s.fb
  mem : f.mem = false → t.mem = s.mem
  draws : f.draws = false → t.draws = s.draws
  keys : t.keys = s.keys
  currentOpcode : t.currentOpcode = s.currentOpcode

namespace Within

variable {f : Footprint} {s t u : State}

theorem refl (f : Footprint) (s : State) : Within f s s := by
  constructor <;> simp

theorem trans (hst : Within f s t) (htu : Within f t u) : Within f s u where
  regs r hr := (htu.regs r hr).trans (hst.regs r hr)
  pc h := (htu.pc h).trans (hst.pc h)
  index h := (htu.index h).trans (hst.index h)
  stack h := ⟨(htu.stack h).1.trans (hst.stack h).1, (htu.stack h).2.trans (hst.stack h).2⟩
  dt h := (htu.dt h).trans (hst.dt h)
  st h := (htu.st h).trans (hst.st h)
  fb h := (htu.fb h).trans (hst.fb h)
  mem h := (htu.mem h).trans (hst.mem h)
  draws h := (htu.draws h).trans (hst.draws h)
  keys := htu.keys.trans hst.keys
  currentOpcode := htu.currentOpcode.trans hst.currentOpcode

/-! ## The named updates -/

theorem setReg {x : Reg} (hx : x ∈ f.regs) (b : Byte) : Within f s (s.setReg x b) :=
  { refl f s with
    regs := fun r hr => by
      rw [State.reg_setReg, if_neg]
      rintro rfl
      exact hr hx }

theorem setFlagThenReg {x : Reg} (hx : x ∈ f.regs) (hvf : vf ∈ f.regs) (flag b : Byte) :
    Within f s (s.setFlagThenReg flag x b) :=
  (setReg hvf flag).trans (setReg hx b)

theorem setPc (h : f.pc = true) (a : Addr) : Within f s (s.setPc a) :=
  { refl f s with pc := by simp [h] }

theorem skipIf (h : f.pc = true) (c : Bool) : Within f s (skipIf c s) := by
  cases c with
  | false => exact refl f s
  | true => exact setPc h _

theorem setIndex (h : f.index = true) (a : Addr) : Within f s (s.setIndex a) :=
  { refl f s with index := by simp [h] }

theorem setDt (h : f.dt = true) (b : Byte) : Within f s (s.setDt b) :=
  { refl f s with dt := by simp [h] }

theorem setSt (h : f.st = true) (b : Byte) : Within f s (s.setSt b) :=
  { refl f s with st := by simp [h] }

theorem setFb (h : f.fb = true) (fb : Framebuffer) : Within f s (s.setFb fb) :=
  { refl f s with fb := by simp [h] }

theorem setMem (h : f.mem = true) (m : Memory) : Within f s (s.setMem m) :=
  { refl f s with mem := by simp [h] }

theorem afterDraw (h : f.draws = true) : Within f s s.afterDraw :=
  { refl f s with draws := by simp [h] }

theorem raise (c : FaultCause) (info : Addr) : Within f s (raise c info s).state :=
  { refl f s with }

/-! ## The shared operations -/

theorem push (h : f.stack = true) (a : Addr) : Within f s (push a s).state := by
  rcases push_cases a s with ⟨_, hp⟩ | ⟨-, hp⟩ <;> rw [hp]
  · exact { refl f s with stack := by simp [h] }
  · exact raise _ _

theorem popPc (hs : f.stack = true) (hpc : f.pc = true) : Within f s (popPc s).state := by
  rcases popPc_cases s with ⟨_, hp⟩ | ⟨-, hp⟩ <;> rw [hp]
  · exact { refl f s with stack := by simp [hs], pc := by simp [hpc] }
  · exact raise _ _

theorem andThen_done {r : Attempt} {g : State → State} (hr : Within f s r.state)
    (hg : ∀ t, Within f t (g t)) : Within f s (r.andThen fun t => .done (g t)).state := by
  cases r with
  | done t => exact hr.trans (hg t)
  | raised t => exact hr

theorem memWrite (h : f.mem = true) (a : Addr) (b : Byte) : Within f s (memWrite a b s).state := by
  rcases Nat.lt_or_ge a.toNat 4096 with ha | ha
  · rw [memWrite_inside ha]
    exact setMem h _
  · rw [memWrite_outside ha]
    exact raise _ _

theorem memRead {a : Addr} {k : Byte → State → Attempt} (hk : ∀ b, Within f s (k b s).state) :
    Within f s (memRead a k s).state := by
  rcases Nat.lt_or_ge a.toNat 4096 with ha | ha
  · rw [memRead_inside ha]
    exact hk _
  · rw [memRead_outside ha]
    exact raise _ _

theorem forEach {α : Type} {g : α → State → Attempt} {as : List α}
    (hbody : ∀ a ∈ as, ∀ u, Within f u (g a u).state) : Within f s (forEach g as s).state :=
  forEach_keeps (refl f) (fun _ _ _ => trans) hbody s

theorem flipPixel (hvf : vf ∈ f.regs) (hfb : f.fb = true) (px : Fin 64) (py : Fin 32) :
    Within f s (flipPixel px py s) := by
  rcases flipPixel_cases px py s with ⟨-, h⟩ | ⟨-, h⟩ <;> rw [h]
  · exact (setReg hvf _).trans (setFb hfb _)
  · exact setFb hfb _

theorem drawColumn (hvf : vf ∈ f.regs) (hfb : f.fb = true) (ox py : Nat) (row : Byte) (c : Nat) :
    Within f s (drawColumn ox py row c s).state := by
  unfold Machine.drawColumn drawPixel
  split
  · split
    · exact flipPixel hvf hfb _ _
    · exact raise _ _
  · exact refl f s

theorem drawRow (hvf : vf ∈ f.regs) (hfb : f.fb = true) (ox oy r : Nat) :
    Within f s (drawRow ox oy r s).state :=
  memRead fun row => forEach fun c _ _ => drawColumn hvf hfb ox (oy + r) row c

theorem skipOnKey (h : f.pc = true) (down : Bool) (x : Reg) : Within f s (skipOnKey down x s).state := by
  unfold Machine.skipOnKey
  split
  · exact skipIf h _
  · exact raise _ _

theorem loadReg {k : Reg} (hk : k ∈ f.regs) : Within f s (loadReg k s).state :=
  memRead fun b => setReg hk b

end Within

/-! ## The instructions -/

/-- What each instruction may write, beside the `FAULT` record: registers as R32 and the rest as R35 to R42
and R112 say. -/
def footprint (i : Instr) : Footprint where
  regs := regsWritten i
  pc := changesPc i
  index := match i with
    | .ldI _ | .addI _ | .ldF _ => true
    | _ => false
  stack := match i with
    | .call _ | .ret => true
    | _ => false
  dt := match i with
    | .ldDtVx _ => true
    | _ => false
  st := match i with
    | .ldStVx _ => true
    | _ => false
  fb := match i with
    | .cls | .drw _ _ _ => true
    | _ => false
  mem := match i with
    | .ldB _ | .ldMemVx _ => true
    | _ => false
  draws := match i with
    | .rnd _ _ => true
    | _ => false

theorem execState_within (i : Instr) (s : State) : Within (footprint i) s (execState i s) := by
  have hvf (x y : Reg) (n : Nibble) : vf ∈ (footprint (.drw x y n)).regs := List.mem_cons_self
  cases i with
  | cls => exact .setFb rfl _
  | ret => exact .popPc rfl rfl
  | call nnn => exact .andThen_done (.push rfl _) fun _ => .setPc rfl _
  | jp | jpV0 => exact .setPc rfl _
  | seImm | sneImm | seReg | sneReg => exact .skipIf rfl _
  | ldImm | addImm | ldReg | orReg | andReg | xorReg | ldVxDt => exact .setReg List.mem_cons_self _
  | addReg | sub | shr | subn | shl =>
    exact .setFlagThenReg List.mem_cons_self (List.mem_cons_of_mem _ List.mem_cons_self) _ _
  | rnd x nn => exact (Within.afterDraw rfl).trans (.setReg List.mem_cons_self _)
  | ldI | addI | ldF => exact .setIndex rfl _
  | drw x y n =>
    exact (Within.setReg (hvf x y n) _).trans (.forEach fun r _ _ => .drawRow (hvf x y n) rfl _ _ r)
  | skp x => exact .skipOnKey rfl true x
  | sknp x => exact .skipOnKey rfl false x
  | ldVxK x =>
    cases h : s.firstKeyDown with
    | none => rw [execState_ldVxK_of_none h]; exact .setPc rfl _
    | some k => rw [execState_ldVxK_of_some h]; exact .setReg List.mem_cons_self _
  | ldDtVx x => exact .setDt rfl _
  | ldStVx x => exact .setSt rfl _
  | ldB x => exact .forEach fun _ _ _ => .memWrite rfl _ _
  | ldMemVx x => exact .forEach fun _ _ _ => .memWrite rfl _ _
  | ldVxMem x =>
    refine .forEach fun k hk _ => .loadReg ?_
    exact List.mem_filter.2 ⟨List.mem_finRange k, decide_eq_true (mem_regsThrough.1 hk)⟩

section
variable {i : Instr}

theorem footprint_mem (hB : ∀ x, i ≠ .ldB x) (hM : ∀ x, i ≠ .ldMemVx x) : (footprint i).mem = false := by
  cases i with
  | ldB x => exact absurd rfl (hB x)
  | ldMemVx x => exact absurd rfl (hM x)
  | _ => rfl

theorem footprint_index (hL : ∀ nnn, i ≠ .ldI nnn) (hA : ∀ x, i ≠ .addI x) (hF : ∀ x, i ≠ .ldF x) :
    (footprint i).index = false := by
  cases i with
  | ldI nnn => exact absurd rfl (hL nnn)
  | addI x => exact absurd rfl (hA x)
  | ldF x => exact absurd rfl (hF x)
  | _ => rfl

theorem footprint_stack (hcall : ∀ nnn, i ≠ .call nnn) (hret : i ≠ .ret) :
    (footprint i).stack = false := by
  cases i with
  | call nnn => exact absurd rfl (hcall nnn)
  | ret => exact absurd rfl hret
  | _ => rfl

theorem footprint_dt (h : ∀ x, i ≠ .ldDtVx x) : (footprint i).dt = false := by
  cases i with
  | ldDtVx x => exact absurd rfl (h x)
  | _ => rfl

theorem footprint_st (h : ∀ x, i ≠ .ldStVx x) : (footprint i).st = false := by
  cases i with
  | ldStVx x => exact absurd rfl (h x)
  | _ => rfl

theorem footprint_fb (hcls : i ≠ .cls) (hdrw : ∀ x y n, i ≠ .drw x y n) : (footprint i).fb = false := by
  cases i with
  | cls => exact absurd rfl hcls
  | drw x y n => exact absurd rfl (hdrw x y n)
  | _ => rfl

theorem footprint_draws (h : ∀ x nn, i ≠ .rnd x nn) : (footprint i).draws = false := by
  cases i with
  | rnd x nn => exact absurd rfl (h x nn)
  | _ => rfl

end

/-- Settles O49: the registers of the footprint are those of R32. -/
theorem registersChangeOnlyAsNamed : Obligations.RegistersChangeOnlyAsNamed := by
  intro i s t r h hr
  rw [eq_execState h]
  exact (execState_within i s).regs r hr

/-- Settles O50: the instructions excepted for each part are those whose footprint holds it. -/
theorem otherStateChangesOnlyAsNamed : Obligations.OtherStateChangesOnlyAsNamed := by
  intro i s t h
  have hw := execState_within i s
  rw [← eq_execState h] at hw
  exact ⟨fun hB hM => State.byteAt_congr (hw.mem (footprint_mem hB hM)),
    fun hL hA hF => hw.index (footprint_index hL hA hF),
    fun hD => hw.dt (footprint_dt hD), fun hS => hw.st (footprint_st hS), hw.pc,
    fun hR => hw.draws (footprint_draws hR), hw.currentOpcode⟩

end Sys2Proof.Machine
end

section
/-! What an instruction reads (10_state.md R36, R39 to R42).  An `Overlay` puts other values in the parts of
the state that only a few instructions use; every instruction that uses none of the parts an overlay replaces
commutes with it. -/

namespace Sys2Proof.Machine

/-- Other values for the return stack (with `SP`), the sound timer, `current_opcode`, the keypad and the
framebuffer, or nothing where the state keeps its own. -/
structure Overlay where
  stack : Option (Vector Addr 16 × Fin 17) := none
  st : Option Byte := none
  currentOpcode : Option Word := none
  keys : Option (Vector Bool 16) := none
  fb : Option Framebuffer := none

/-- The state with the overlay's values in place of its own. -/
def State.overlay (o : Overlay) (s : State) : State :=
  { s with
    stack := (o.stack.map Prod.fst).getD s.stack
    sp := (o.stack.map Prod.snd).getD s.sp
    st := o.st.getD s.st
    currentOpcode := o.currentOpcode.getD s.currentOpcode
    keys := o.keys.getD s.keys
    fb := o.fb.getD s.fb }

/-- The overlay of the state an attempt leaves. -/
def Attempt.overlay (o : Overlay) : Attempt → Attempt
  | .done s => .done (s.overlay o)
  | .raised s => .raised (s.overlay o)

/-- The instructions that read the keypad (R41). -/
def readsKeys : Instr → Bool
  | .skp _ | .sknp _ | .ldVxK _ => true
  | _ => false

theorem readsKeys_eq_false {i : Instr} (hskp : ∀ x, i ≠ .skp x) (hsknp : ∀ x, i ≠ .sknp x)
    (hkey : ∀ x, i ≠ .ldVxK x) : readsKeys i = false := by
  cases i with
  | skp x => exact absurd rfl (hskp x)
  | sknp x => exact absurd rfl (hsknp x)
  | ldVxK x => exact absurd rfl (hkey x)
  | _ => rfl

/-- The overlay replaces no part of the state that the instruction uses.  The stack, the sound timer and the
framebuffer are used by no instruction but those that may write them; `current_opcode` is used by none. -/
structure Overlay.Avoids (o : Overlay) (i : Instr) : Prop where
  stack : (footprint i).stack = true → o.stack = none
  st : (footprint i).st = true → o.st = none
  fb : (footprint i).fb = true → o.fb = none
  keys : readsKeys i = true → o.keys = none

section
variable (o : Overlay) (s : State)

@[simp] theorem Attempt.state_overlay (r : Attempt) : (r.overlay o).state = r.state.overlay o := by
  cases r <;> rfl

@[simp] theorem State.reg_overlay (x : Reg) : (s.overlay o).reg x = s.reg x := rfl

@[simp] theorem State.byteAt_overlay (a : Addr) : (s.overlay o).byteAt a = s.byteAt a := rfl

theorem State.overlay_fb (h : o.fb = none) : (s.overlay o).fb = s.fb := by
  simp [State.overlay, h]

theorem State.overlay_keys (h : o.keys = none) : (s.overlay o).keys = s.keys := by
  simp [State.overlay, h]

/-! ## The shared operations commute with an overlay -/

theorem skipIf_overlay (c : Bool) : skipIf c (s.overlay o) = (skipIf c s).overlay o := by
  cases c <;> rfl

theorem memRead_overlay {a : Addr} {k : Byte → State → Attempt}
    (hk : ∀ b, k b (s.overlay o) = (k b s).overlay o) :
    memRead a k (s.overlay o) = (memRead a k s).overlay o := by
  unfold memRead
  rw [State.byteAt_overlay]
  cases s.byteAt a with
  | none => rfl
  | some b => exact hk b

theorem memWrite_overlay (a : Addr) (b : Byte) :
    memWrite a b (s.overlay o) = (memWrite a b s).overlay o := by
  unfold memWrite
  split <;> rfl

theorem forEach_overlay {α : Type} {f : α → State → Attempt} {as : List α}
    (hbody : ∀ a ∈ as, ∀ t, f a (t.overlay o) = (f a t).overlay o) :
    forEach f as (s.overlay o) = (forEach f as s).overlay o := by
  induction as generalizing s with
  | nil => rfl
  | cons a as ih =>
    rw [forEach_cons, forEach_cons, hbody a List.mem_cons_self]
    cases f a s with
    | raised t => rfl
    | done t => exact ih t fun b hb => hbody b (List.mem_cons_of_mem a hb)

theorem push_overlay (h : o.stack = none) (a : Addr) : push a (s.overlay o) = (push a s).overlay o := by
  obtain ⟨stack, st, w, keys, fb⟩ := o
  obtain rfl : stack = none := h
  rcases push_cases a s with ⟨hsp, hp⟩ | ⟨hsp, hp⟩
  · rw [hp]
    exact dif_pos hsp
  · rw [hp]
    exact dif_neg hsp.not_lt

theorem popPc_overlay (h : o.stack = none) : popPc (s.overlay o) = (popPc s).overlay o := by
  obtain ⟨stack, st, w, keys, fb⟩ := o
  obtain rfl : stack = none := h
  rcases popPc_cases s with ⟨hsp, hp⟩ | ⟨hsp, hp⟩
  · rw [hp]
    exact dif_pos hsp
  · rw [hp]
    exact dif_neg hsp.not_gt

theorem setFb_overlay (h : o.fb = none) (fb : Framebuffer) :
    (s.overlay o).setFb fb = (s.setFb fb).overlay o := by
  simp [State.overlay, State.setFb, h]

theorem setSt_overlay (h : o.st = none) (b : Byte) :
    (s.overlay o).setSt b = (s.setSt b).overlay o := by
  simp [State.overlay, State.setSt, h]

theorem flipPixel_overlay (h : o.fb = none) (px : Fin 64) (py : Fin 32) :
    flipPixel px py (s.overlay o) = (flipPixel px py s).overlay o := by
  simp only [flipPixel, State.overlay_fb o s h, ← setFb_overlay o _ h]
  split <;> rfl

theorem drawColumn_overlay (h : o.fb = none) (ox py : Nat) (row : Byte) (c : Nat) :
    drawColumn ox py row c (s.overlay o) = (drawColumn ox py row c s).overlay o := by
  unfold drawColumn drawPixel
  split
  · split
    · exact congrArg Attempt.done (flipPixel_overlay o s h _ _)
    · rfl
  · rfl

theorem drawRow_overlay (h : o.fb = none) (ox oy r : Nat) :
    drawRow ox oy r (s.overlay o) = (drawRow ox oy r s).overlay o :=
  memRead_overlay o s fun row =>
    forEach_overlay o s fun c _ t => drawColumn_overlay o t h ox (oy + r) row c

theorem skipOnKey_overlay (h : o.keys = none) (down : Bool) (x : Reg) :
    skipOnKey down x (s.overlay o) = (skipOnKey down x s).overlay o := by
  simp only [skipOnKey, State.reg_overlay, State.keyDown, State.overlay_keys o s h]
  cases keyIndex (s.reg x) with
  | none => rfl
  | some k => exact congrArg Attempt.done (skipIf_overlay o s _)

theorem firstKeyDown_overlay (h : o.keys = none) : (s.overlay o).firstKeyDown = s.firstKeyDown := by
  unfold State.firstKeyDown
  congr 1
  funext k
  rw [State.keyDown, State.keyDown, State.overlay_keys o s h]

end

theorem andThen_overlay {o : Overlay} {q r : Attempt} {f : State → Attempt} (h : q = r.overlay o)
    (hf : ∀ t, f (t.overlay o) = (f t).overlay o) : q.andThen f = (r.andThen f).overlay o := by
  subst h
  cases r with
  | done t => exact hf t
  | raised t => rfl

/-! ## The instructions -/

theorem Attempt.state_eq_overlay {o : Overlay} {q r : Attempt} (h : q = r.overlay o) :
    q.state = r.state.overlay o := by
  rw [h, Attempt.state_overlay]

theorem execState_overlay {o : Overlay} {i : Instr} (h : o.Avoids i) (s : State) :
    execState i (s.overlay o) = (execState i s).overlay o := by
  cases i with
  | cls => exact setFb_overlay o s (h.fb rfl) _
  | ret => exact Attempt.state_eq_overlay (popPc_overlay o s (h.stack rfl))
  | call nnn =>
    have hpush := push_overlay o s (h.stack rfl) s.pc
    exact Attempt.state_eq_overlay (andThen_overlay hpush fun t => rfl)
  | seImm | sneImm | seReg | sneReg => exact skipIf_overlay o s _
  | drw x y n =>
    refine Attempt.state_eq_overlay (forEach_overlay o (s.setReg vf 0#8) fun r _ t => ?_)
    exact drawRow_overlay o t (h.fb rfl) _ _ r
  | skp x => exact Attempt.state_eq_overlay (skipOnKey_overlay o s (h.keys rfl) true x)
  | sknp x => exact Attempt.state_eq_overlay (skipOnKey_overlay o s (h.keys rfl) false x)
  | ldVxK x =>
    have hkey := firstKeyDown_overlay o s (h.keys rfl)
    cases hs : s.firstKeyDown with
    | none => rw [execState_ldVxK_of_none hs, execState_ldVxK_of_none (hkey.trans hs)]; rfl
    | some k => rw [execState_ldVxK_of_some hs, execState_ldVxK_of_some (hkey.trans hs)]; rfl
  | ldStVx x => exact setSt_overlay o s (h.st rfl) _
  | ldB x => exact Attempt.state_eq_overlay (forEach_overlay o s fun d _ t => memWrite_overlay o t _ _)
  | ldMemVx x => exact Attempt.state_eq_overlay (forEach_overlay o s fun k _ t => memWrite_overlay o t _ _)
  | ldVxMem x =>
    exact Attempt.state_eq_overlay (forEach_overlay o s fun k _ t => memRead_overlay o t fun _ => rfl)
  | _ => rfl

theorem exec_overlay {o : Overlay} {i : Instr} (h : o.Avoids i) (s : State) :
    exec i (s.overlay o) = .next ((execState i s).overlay o) := by
  rw [exec_eq_next, execState_overlay h]

/-- Settles O51.  An overlay of the framebuffer avoids every instruction but `00E0` and `DXYN`, and `00E0`
writes the same pixels whatever they were. -/
theorem framebufferTouchedOnlyByDisplay : Obligations.FramebufferTouchedOnlyByDisplay := by
  intro i s hdrw
  refine ⟨execState i s, exec_eq_next i s,
    fun hcls => (execState_within i s).fb (footprint_fb hcls hdrw), fun fb => ?_⟩
  by_cases hcls : i = .cls
  · subst hcls
    rfl
  · rw [if_neg hcls]
    have hfb := footprint_fb hcls hdrw
    exact exec_overlay (o := { fb := some fb })
      ⟨fun _ => rfl, fun _ => rfl, by simp [hfb], fun _ => rfl⟩ s

/-- Settles O52, by an overlay of the keypad. -/
theorem keypadReadOnlyAndOnlyByKeyInstructions :
    Obligations.KeypadReadOnlyAndOnlyByKeyInstructions := by
  intro i s
  refine ⟨execState i s, exec_eq_next i s, (execState_within i s).keys, fun hskp hsknp hkey keys => ?_⟩
  have hkeys := readsKeys_eq_false hskp hsknp hkey
  exact exec_overlay (o := { keys := some keys })
    ⟨fun _ => rfl, fun _ => rfl, fun _ => rfl, by simp [hkeys]⟩ s

/-- Settles O53, by an overlay of the stack. -/
theorem stackTouchedOnlyByCallAndReturn : Obligations.StackTouchedOnlyByCallAndReturn := by
  intro i s hcall hret
  have hunused := footprint_stack hcall hret
  obtain ⟨hstack, hsp⟩ := (execState_within i s).stack hunused
  exact ⟨execState i s, exec_eq_next i s, hstack, hsp, fun stack sp =>
    exec_overlay (o := { stack := some (stack, sp) })
      ⟨by simp [hunused], fun _ => rfl, fun _ => rfl, fun _ => rfl⟩ s⟩

/-- Settles O54, by overlays of `current_opcode`, which avoids every instruction, and of the sound timer;
`FX18` replaces the sound timer whatever it was. -/
theorem soundTimerAndOpcodeReadByNoInstruction :
    Obligations.SoundTimerAndOpcodeReadByNoInstruction := by
  intro i s
  refine ⟨execState i s, exec_eq_next i s, fun w => ?_, fun hne b => ?_, ?_⟩
  · exact exec_overlay (o := { currentOpcode := some w })
      ⟨fun _ => rfl, fun _ => rfl, fun _ => rfl, fun _ => rfl⟩ s
  · have hst := footprint_st hne
    exact exec_overlay (o := { st := some b })
      ⟨fun _ => rfl, by simp [hst], fun _ => rfl, fun _ => rfl⟩ s
  · rintro x rfl b
    rfl

end Sys2Proof.Machine
end

section
/-! The instruction encoding (30_encoding.md R104, R105): decoding undoes encoding. -/

namespace Sys2Proof

/-- The fields of the packed word are the operands, by the rules for the three formats; what is left is the
choice of row inside the word's class. -/
theorem decode_encode (i : Instr) : decode (encode i) = .instr i := by
  cases i with
  | cls | ret => rfl
  | jp | call | seImm | sneImm | seReg | ldImm | addImm | sneReg | ldI | jpV0 | rnd | drw =>
    simp [encode, decode]
  | ldReg | orReg | andReg | xorReg | addReg | sub | shr | subn | shl =>
    simp [encode, decode, decodeClass8]
  | skp | sknp => simp [encode, decode, decodeClassE]
  | ldVxDt | ldVxK | ldDtVx | ldStVx | addI | ldF | ldB | ldMemVx | ldVxMem =>
    simp [encode, decode, decodeClassF]

theorem decodeBytes_wordBytes_append (w : Word) (rest : List Byte) :
    decodeBytes (wordBytes w ++ rest) = .decoded (decode w) rest := by
  simp [wordBytes, decodeBytes]

/-- Settles O1: the two bytes make the word again, and decoding undoes encoding. -/
theorem decodeOfEncode : Obligations.DecodeOfEncode := by
  intro i rest
  rw [decodeBytes_wordBytes_append, decode_encode]

end Sys2Proof
end

section
/-! The canonical form of memory (20_memory.md R81, R83): what is listed decides the list, and how memory reads
for every power-on content decides what is listed. -/

namespace Sys2Proof.Machine

/-! ## What is listed decides the list -/

theorem Memory.mem_of_find {m : Memory} {a : Nat} {w : Byte} (h : m.find a = some w) : (a, w) ∈ m := by
  induction m with
  | nil => cases h
  | cons c m ih =>
    obtain ⟨b, u⟩ := c
    rw [Memory.find] at h
    split at h
    next heq =>
      obtain rfl := Option.some.inj h
      exact heq ▸ List.mem_cons_self
    next => exact List.mem_cons_of_mem _ (ih h)

theorem Memory.find_of_mem {m : Memory} (hm : m.Pairwise fun c d => c.1 < d.1) {a : Nat} {w : Byte}
    (h : (a, w) ∈ m) : m.find a = some w := by
  induction m with
  | nil => cases h
  | cons c m ih =>
    obtain ⟨b, u⟩ := c
    obtain ⟨hlt, hm⟩ := List.pairwise_cons.1 hm
    rw [Memory.find]
    rcases List.mem_cons.1 h with heq | hmem
    · obtain ⟨rfl, rfl⟩ := Prod.mk.inj heq
      rw [if_pos rfl]
    · have hne : a ≠ b := (hlt _ hmem).ne'
      rw [if_neg hne, ih hm hmem]

theorem Memory.mem_iff_find {m : Memory} (hm : m.wf) {a : Nat} {w : Byte} : (a, w) ∈ m ↔ m.find a = some w :=
  ⟨Memory.find_of_mem hm.1, Memory.mem_of_find⟩

theorem Memory.ext_find {m m' : Memory} (hm : m.wf) (hm' : m'.wf)
    (h : ∀ a, m.find a = m'.find a) : m = m' := by
  have : Std.Irrefl fun c d : Host.Cell => c.1 < d.1 := ⟨fun _ => Nat.lt_irrefl _⟩
  refine hm.1.eq_of_mem_iff hm'.1 fun (a, w) => ?_
  rw [Memory.mem_iff_find hm, Memory.mem_iff_find hm', h]

/-- A listed byte lies inside the address space and is not the one the reset contents give. -/
theorem Memory.lt_and_unlisted_ne_of_find {m : Memory} (hm : m.wf) {a : Nat} {w : Byte}
    (h : m.find a = some w) : a < 4096 ∧ Memory.unlisted a ≠ some w :=
  hm.2 _ (Memory.mem_of_find h)

theorem Memory.find_of_ge {m : Memory} (hm : m.wf) {a : Nat} (ha : 4096 ≤ a) : m.find a = none :=
  Option.eq_none_iff_forall_ne_some.2 fun _ h =>
    Nat.not_lt.2 ha (Memory.lt_and_unlisted_ne_of_find hm h).1

/-! ## How memory reads decides what is listed -/

theorem Memory.find_eq_some_of_readWith {m m' : Memory} (hm : m.wf) {a : Nat} {w : Byte}
    (h : ∀ init, m.readWith init a = m'.readWith init a) (hw : m.find a = some w) :
    m'.find a = some w := by
  have hread (init : Nat → Byte) : m'.readWith init a = w := by rw [← h, Memory.readWith, hw]
  cases hf : m'.find a with
  | some u => simpa [Memory.readWith, hf] using hread fun _ => 0#8
  | none =>
    cases hu : Memory.unlisted a with
    | some u =>
      have huw : u = w := by simpa [Memory.readWith, hf, hu] using hread fun _ => 0#8
      exact absurd (huw ▸ hu) (Memory.lt_and_unlisted_ne_of_find hm hw).2
    | none =>
      -- Memory that held another byte than `w` at power-on tells the two apart.
      have hne : w + 1#8 = w := by simpa [Memory.readWith, hf, hu] using hread fun _ => w + 1#8
      simp at hne

theorem Memory.find_eq_of_readWith {m m' : Memory} (hm : m.wf) (hm' : m'.wf) {a : Nat}
    (h : ∀ init, m.readWith init a = m'.readWith init a) : m.find a = m'.find a :=
  Option.ext fun _ =>
    ⟨Memory.find_eq_some_of_readWith hm h, Memory.find_eq_some_of_readWith hm' fun init => (h init).symm⟩

/-- Settles O12: the two lists have the same bytes listed below 4096 and none above. -/
theorem canonicalMemoriesThatReadAlikeAreEqual : Obligations.CanonicalMemoriesThatReadAlikeAreEqual := by
  intro m m' hm hm' h
  refine Memory.ext_find hm hm' fun a => ?_
  rcases Nat.lt_or_ge a 4096 with ha | ha
  · exact Memory.find_eq_of_readWith hm hm' fun init => h init a ha
  · rw [Memory.find_of_ge hm ha, Memory.find_of_ge hm' ha]

end Sys2Proof.Machine
end

section
/-! A stored instruction word and the fetch that reads it (20_memory.md R73, R85). -/

namespace Sys2Proof.Machine

theorem fetch_below {s : State} (h : s.pc.toNat < 4095) : fetch s = .done s.afterFetch := by
  rcases fetch_cases s with ⟨hpc, -⟩ | ⟨hpc, -⟩ | ⟨-, hf⟩
  · omega
  · omega
  · exact hf

theorem tableBytes_toNat (w : Word) : tableBytes 16 w.toNat = wordBytes w := by
  rw [tableBytes, Nat.mod_eq_of_lt w.isLt, BitVec.ofNat_toNat, BitVec.setWidth_eq]

/-- Both bytes of a word stored below 4095 lie inside memory. -/
theorem State.withFetchWord_below {s : State} (h : s.pc.toNat < 4095) (w : Word) :
    s.withFetchWord 16 w.toNat = s.setMem (s.mem.writeAll s.pc.toNat (wordBytes w)) := by
  have hroom : (wordBytes w).length ≤ Config.memSize - s.pc.toNat := by
    show 2 ≤ 4096 - s.pc.toNat
    omega
  rw [State.withFetchWord, storeAtPc, tableBytes_toNat, List.take_of_length_le hroom]

theorem State.fetchedWord_setMem_writeAll (s : State) (w : Word) :
    (s.setMem (s.mem.writeAll s.pc.toNat (wordBytes w))).fetchedWord = w := by
  simp [State.fetchedWord, Memory.read_writeAll, wordBytes]

theorem Memory.read_writeAll_wordBytes_other (m : Memory) {a p : Nat} (w : Word) (h₀ : a ≠ p)
    (h₁ : a ≠ p + 1) : (m.writeAll p (wordBytes w)).read a = m.read a := by
  rw [wordBytes, Memory.writeAll, Memory.writeAll, Memory.writeAll, Memory.read_write_other _ _ h₁,
    Memory.read_write_other _ _ h₀]

/-- Settles O13: the store writes the two bytes that the fetch joins to a word again. -/
theorem storedWordIsFetched : Obligations.StoredWordIsFetched := by
  intro s w hpc
  rw [State.withFetchWord_below hpc]
  have hword := s.fetchedWord_setMem_writeAll w
  refine ⟨hword, ?_, rfl, fun a h₀ h₁ => s.mem.read_writeAll_wordBytes_other w h₀ h₁⟩
  have hfetch := fetch_below (s := s.setMem (s.mem.writeAll s.pc.toNat (wordBytes w))) hpc
  rwa [State.afterFetch, hword] at hfetch

end Sys2Proof.Machine
end

section
/-! The decoder (30_encoding.md R104 to R107): what it keeps of a word, and how the fixed digits of the opcode
table's rows decide what it answers. -/

namespace Sys2Proof

/-! ## A word is its fields, packed -/

theorem packFA_of_fields {w : Word} {c : Nibble} (hc : opClass w = c) : packFA c (fieldNNN w) = w := by
  subst hc
  apply BitVec.eq_of_toNat_eq
  simp [packFA, opClass, fieldNNN, BitVec.extractLsb'_toNat, Nat.shiftRight_eq_div_pow]
  omega

theorem packFXNN_of_fields {w : Word} {c : Nibble} {nn : Byte} (hc : opClass w = c)
    (hnn : fieldNN w = nn) : packFXNN c (fieldX w) nn = w := by
  subst hc hnn
  apply BitVec.eq_of_toNat_eq
  simp [packFXNN, opClass, fieldX, fieldNN, BitVec.extractLsb'_toNat, Nat.shiftRight_eq_div_pow]
  omega

theorem packFXYN_of_fields {w : Word} {c n : Nibble} (hc : opClass w = c) (hn : fieldN w = n) :
    packFXYN c (fieldX w) (fieldY w) n = w := by
  subst hc hn
  apply BitVec.eq_of_toNat_eq
  simp [packFXYN, opClass, fieldX, fieldY, fieldN, BitVec.extractLsb'_toNat, Nat.shiftRight_eq_div_pow]
  omega

/-! ## Decoding keeps the word -/

/-- The word a decoder result stands for (R105): decoding does not change it (`word_decode`). -/
def Decoded.word : Decoded → Word
  | .instr i => encode i
  | .unrecognized w => w

theorem word_decodeClass0 (w : Word) : (decodeClass0 w).word = w := by
  unfold decodeClass0
  split
  next h => exact h.symm
  next =>
    split
    next h => exact h.symm
    next => rfl

theorem word_decodeClass8 {w : Word} (hc : opClass w = 0x8#4) : (decodeClass8 w).word = w := by
  unfold decodeClass8
  split
  case h_10 => rfl
  all_goals exact packFXYN_of_fields hc ‹_›

theorem word_decodeClassE {w : Word} (hc : opClass w = 0xE#4) : (decodeClassE w).word = w := by
  unfold decodeClassE
  split
  case h_3 => rfl
  all_goals exact packFXNN_of_fields hc ‹_›

theorem word_decodeClassF {w : Word} (hc : opClass w = 0xF#4) : (decodeClassF w).word = w := by
  unfold decodeClassF
  split
  case h_10 => rfl
  all_goals exact packFXNN_of_fields hc ‹_›

theorem word_ite_fieldN {w : Word} {i : Instr} (h : fieldN w = 0#4 → encode i = w) :
    (if fieldN w = 0#4 then Decoded.instr i else .unrecognized w).word = w := by
  split
  next hn => exact h hn
  next => rfl

theorem word_decode (w : Word) : (decode w).word = w := by
  unfold decode
  split
  next => exact word_decodeClass0 w
  next hc => exact packFA_of_fields hc
  next hc => exact packFA_of_fields hc
  next hc => exact packFXNN_of_fields hc rfl
  next hc => exact packFXNN_of_fields hc rfl
  next hc => exact word_ite_fieldN (packFXYN_of_fields hc)
  next hc => exact packFXNN_of_fields hc rfl
  next hc => exact packFXNN_of_fields hc rfl
  next hc => exact word_decodeClass8 hc
  next hc => exact word_ite_fieldN (packFXYN_of_fields hc)
  next hc => exact packFA_of_fields hc
  next hc => exact packFA_of_fields hc
  next hc => exact packFXNN_of_fields hc rfl
  next hc => exact packFXYN_of_fields hc rfl
  next hc => exact word_decodeClassE hc
  next =>
    -- The last arm is left to the one class that no arm above names.
    have hc : opClass w = 0xF#4 := by
      generalize opClass w = c at *
      revert c
      decide
    exact word_decodeClassF hc

theorem encode_of_decode {w : Word} {i : Instr} (h : decode w = .instr i) : encode i = w := by
  simpa [h, Decoded.word] using word_decode w

theorem eq_of_decode_unrecognized {w v : Word} (h : decode w = .unrecognized v) : v = w := by
  simpa [h, Decoded.word] using word_decode w

/-- Settles O2: the word a decoder result stands for is the word that was decoded. -/
theorem encodeOfDecode : Obligations.EncodeOfDecode := fun _ _ => encode_of_decode

/-! ## The rows of the opcode table -/

open Laws.EncodedInRow in
theorem encode_in_row (i : Instr) : encode i &&& (opcodeRow i).1 = (opcodeRow i).2 := by
  cases i
  exacts [cls, ret, jp _, call _, seImm _ _, sneImm _ _, seReg _ _, ldImm _ _, addImm _ _, ldReg _ _,
    orReg _ _, andReg _ _, xorReg _ _, addReg _ _, sub _ _, shr _ _, subn _ _, shl _ _, sneReg _ _, ldI _,
    jpV0 _, rnd _ _, drw _ _ _, skp _, sknp _, ldVxDt _, ldVxK _, ldDtVx _, ldStVx _, addI _, ldF _, ldB _,
    ldMemVx _, ldVxMem _]

/-- Two words that agree under a mask agree in every field the mask covers. -/
theorem extractLsb'_eq_of_and_eq {w v m : Word} (lo len : Nat)
    (hm : m.extractLsb' lo len = BitVec.allOnes len) (h : w &&& m = v &&& m) :
    w.extractLsb' lo len = v.extractLsb' lo len := by
  simpa [BitVec.extractLsb'_and, hm] using congrArg (BitVec.extractLsb' lo len) h

theorem fieldN_eq_of_and_maskF00F {w v : Word} (h : w &&& 0xF00F#16 = v &&& 0xF00F#16) :
    fieldN w = fieldN v :=
  extractLsb'_eq_of_and_eq 0 4 (by decide) h

theorem fieldNN_eq_of_and_maskF0FF {w v : Word} (h : w &&& 0xF0FF#16 = v &&& 0xF0FF#16) :
    fieldNN w = fieldNN v :=
  extractLsb'_eq_of_and_eq 0 8 (by decide) h

theorem opClass_opcodeRow_mask (j : Instr) : opClass (opcodeRow j).1 = 0xF#4 := by
  cases j <;> simp [opcodeRow, opClass]

/-- A word of row `j` has the fixed digits of `j`'s own encoding, and the decoder looks at no others to choose
the row. -/
theorem decode_of_in_row {w : Word} {j : Instr} (h : w &&& (opcodeRow j).1 = (opcodeRow j).2) :
    ∃ i, decode w = .instr i ∧ opcodeRow i = opcodeRow j := by
  have hagree := h.trans (encode_in_row j).symm
  have hc : opClass w = opClass (encode j) :=
    extractLsb'_eq_of_and_eq 12 4 (opClass_opcodeRow_mask j) hagree
  cases j with
  | cls | ret =>
    obtain rfl : w = (opcodeRow _).2 := BitVec.and_allOnes.symm.trans h
    exact ⟨_, rfl, rfl⟩
  | jp | call | seImm | sneImm | ldImm | addImm | ldI | jpV0 | rnd | drw =>
    simp [decode, hc, encode, opcodeRow]
  | seReg | sneReg =>
    have hn := fieldN_eq_of_and_maskF00F hagree
    simp [decode, hc, hn, encode, opcodeRow]
  | ldReg | orReg | andReg | xorReg | addReg | sub | shr | subn | shl =>
    have hn := fieldN_eq_of_and_maskF00F hagree
    simp [decode, decodeClass8, hc, hn, encode, opcodeRow]
  | skp | sknp =>
    have hnn := fieldNN_eq_of_and_maskF0FF hagree
    simp [decode, decodeClassE, hc, hnn, encode, opcodeRow]
  | ldVxDt | ldVxK | ldDtVx | ldStVx | addI | ldF | ldB | ldMemVx | ldVxMem =>
    have hnn := fieldNN_eq_of_and_maskF0FF hagree
    simp [decode, decodeClassF, hc, hnn, encode, opcodeRow]

theorem in_row_of_decode {w : Word} {i : Instr} (h : decode w = .instr i) :
    w &&& (opcodeRow i).1 = (opcodeRow i).2 := by
  rw [← encode_of_decode h]
  exact encode_in_row i

/-- Settles O3: a decoded word is its instruction's encoding, which lies in the instruction's row; the fixed
digits of a row decide the decoder's choice; and there is no third answer than an instruction or the word. -/
theorem decodeFollowsOpcodeTable : Obligations.DecodeFollowsOpcodeTable := by
  refine fun w => ⟨fun _ => in_row_of_decode, fun _ => decode_of_in_row, fun hnone => ?_⟩
  cases h : decode w with
  | instr i => exact absurd (in_row_of_decode h) (hnone i)
  | unrecognized v => rw [eq_of_decode_unrecognized h]

/-- Settles O4: the decoder is run on each of the twenty words. -/
theorem specWordsDecode : Obligations.SpecWordsDecode := by
  unfold Obligations.SpecWordsDecode
  decide

end Sys2Proof
end

section
/-! The cycle of a running core (30_encoding.md R106, R107, R110 to R113): fetch, execute, tick. -/

namespace Sys2Proof.Machine

theorem fetch_of_bytes {s : State} {hi lo : Byte} (hhi : s.byteAt s.pc = some hi)
    (hlo : s.byteAt (s.pc + 1#16) = some lo) :
    fetch s = .done { s with currentOpcode := wordOf hi lo, pc := s.pc + 2#16 } := by
  simp only [fetch, hhi, hlo]

theorem execute_of_instr {s : State} {i : Instr} (h : decode s.currentOpcode = .instr i) :
    execute s = exec i s := by
  rw [execute, h]

theorem execute_of_unrecognized {s : State} {w : Word} (h : decode s.currentOpcode = .unrecognized w) :
    execute s = .next s := by
  rw [execute, h]

theorem step_of_execute {s t u : State} (hs : s.Running) (hfetch : fetch s = .done t)
    (hexec : execute t = .next u) : step s = .next (endStep u) := by
  simp [step, hs, hfetch, hexec]

theorem step_of_instr {s t : State} {i : Instr} (hs : s.Running) (hfetch : fetch s = .done t)
    (hdec : decode t.currentOpcode = .instr i) :
    ∃ u, exec i t = .next u ∧ step s = .next (endStep u) := by
  obtain ⟨u, hexec⟩ := exec_answers_next i t
  exact ⟨u, hexec, step_of_execute hs hfetch ((execute_of_instr hdec).trans hexec)⟩

theorem tickTimer_eq_ofNat (b : Byte) : tickTimer b = BitVec.ofNat 8 (b.toNat - 1) := by
  rw [← tickTimer_toNat, BitVec.ofNat_toNat, BitVec.setWidth_eq]

theorem tickTimers_eq (s : State) : tickTimers s =
    { s with dt := BitVec.ofNat 8 (s.dt.toNat - 1), st := BitVec.ofNat 8 (s.st.toNat - 1) } := by
  rw [tickTimers, tickTimer_eq_ofNat, tickTimer_eq_ofNat]

theorem endStep_of_running {s : State} (h : s.Running) : endStep s = tickTimers s := by
  simp [endStep, h]

/-- Settles O14: the three stages, each by its own rule. -/
theorem stepRunsTheDecodedInstruction : Obligations.StepRunsTheDecodedInstruction := by
  intro s hi lo i hs hhi hlo hdec
  obtain ⟨u, hexec, hstep⟩ := step_of_instr hs (fetch_of_bytes hhi hlo) hdec
  exact ⟨u, hexec, by rw [hstep, endStep, tickTimers_eq]⟩

/-- Settles O15: the execute stage of an unrecognized word changes nothing, and no fault holds back
the tick. -/
theorem unrecognizedWordIsANoOp : Obligations.UnrecognizedWordIsANoOp := by
  intro s hs hpc hdec
  have hrun : s.afterFetch.Running := hs
  rw [step_of_execute hs (fetch_below hpc) (execute_of_unrecognized hdec), endStep_of_running hrun,
    tickTimers_eq, State.afterFetch]

/-- Settles O17: the one stop of `step` is that of a halted core. -/
theorem runningCoreAlwaysSteps : Obligations.RunningCoreAlwaysSteps := by
  intro s hs
  rcases step_cases s with ⟨hhalted, -⟩ | ⟨-, t, -, h⟩ | ⟨-, _, u, -, -, h⟩
  · exact absurd (hs.symm.trans hhalted) Bool.false_ne_true
  · exact ⟨t, h⟩
  · exact ⟨endStep u, h⟩

end Sys2Proof.Machine
end

section
/-! The encoded words of the instruction formats (30_encoding.md R103), in the order of terms the obligations
write them: class and sub-function first, then the fields by weight. -/

namespace Sys2Proof

theorem packFXNN_eq_ofNat (c : Nibble) (x : Reg) (nn : Byte) :
    packFXNN c x nn = BitVec.ofNat 16 (c.toNat * 4096 + 0x100 * x.val + nn.toNat) := by
  rw [packFXNN, Nat.mul_comm x.val]

theorem packFXYN_eq_ofNat (c : Nibble) (x y : Reg) (n : Nibble) :
    packFXYN c x y n = BitVec.ofNat 16 (c.toNat * 4096 + n.toNat + 0x100 * x.val + 0x10 * y.val) := by
  rw [packFXYN]
  congr 1
  omega

end Sys2Proof
end

section
/-! Control transfer (40_control.md R130 to R137): what each instruction leaves, as an exact state. -/

namespace Sys2Proof.Machine

/-! ## Operands as addresses -/

theorem zextAddr_eq_ofNat (nnn : Imm12) : zextAddr nnn = BitVec.ofNat 16 nnn.toNat :=
  (BitVec.ofNat_toNat 16 nnn).symm

theorem zextAddr_toNat (nnn : Imm12) : (zextAddr nnn).toNat = nnn.toNat :=
  BitVec.toNat_setWidth_of_le (by decide)

theorem zextByte_toNat (b : Byte) : (zextByte b).toNat = b.toNat :=
  BitVec.toNat_setWidth_of_le (by decide)

/-- R137: the target of `JP V0` is at most 0xFF + 0xFFF, so the sum does not wrap. -/
theorem zextByte_add_zextAddr_toNat (b : Byte) (nnn : Imm12) :
    (zextByte b + zextAddr nnn).toNat = b.toNat + nnn.toNat := by
  rw [BitVec.toNat_add_of_lt, zextByte_toNat, zextAddr_toNat]
  rw [zextByte_toNat, zextAddr_toNat]
  omega

/-! ## Call and return -/

theorem exec_ret_of_pos {s : State} (h : 0 < s.sp.val) : exec .ret s = .next { s with
    sp := ⟨s.sp.val - 1, by omega⟩, pc := s.stack[s.sp.val - 1]'(by omega) } := by
  rcases popPc_cases s with ⟨_, hpop⟩ | ⟨hempty, -⟩
  · rw [exec, execRet, hpop, Attempt.outcome_eq, Attempt.state_done]
  · omega

theorem exec_ret_of_empty {s : State} (h : s.sp.val = 0) :
    exec .ret s = .next (takeFault .stackUnderflow (s.pc - 2#16) 0#16 s) := by
  rcases popPc_cases s with ⟨hpos, -⟩ | ⟨-, hpop⟩
  · omega
  · rw [exec, execRet, hpop, raise_eq, Attempt.outcome_eq, Attempt.state_raised]

theorem exec_call_of_lt {s : State} (h : s.sp.val < 16) (nnn : Imm12) : exec (.call nnn) s = .next { s with
    stack := s.stack.set s.sp.val s.pc
    sp := ⟨s.sp.val + 1, by omega⟩
    pc := BitVec.ofNat 16 nnn.toNat } := by
  rcases push_cases s.pc s with ⟨_, hpush⟩ | ⟨hfull, -⟩
  · rw [exec, execCall, hpush, Attempt.done_andThen, Attempt.outcome_eq, Attempt.state_done,
      State.setPc, zextAddr_eq_ofNat]
  · omega

theorem exec_call_of_full {s : State} (h : s.sp.val = 16) (nnn : Imm12) :
    exec (.call nnn) s = .next (takeFault .stackOverflow (s.pc - 2#16) 16#16 s) := by
  rcases push_cases s.pc s with ⟨hlt, -⟩ | ⟨-, hpush⟩
  · omega
  · rw [exec, execCall, hpush, raise_eq, Attempt.raised_andThen, Attempt.outcome_eq,
      Attempt.state_raised]

/-- Settles O22: both branches of the pop, which exclude each other. -/
theorem returnPopsOrUnderflows : Obligations.ReturnPopsOrUnderflows :=
  ⟨rfl, fun _ => ⟨exec_ret_of_pos, exec_ret_of_empty⟩⟩

/-- Settles O24: both branches of the push, which exclude each other. -/
theorem callPushesOrOverflows : Obligations.CallPushesOrOverflows := fun _ nnn =>
  ⟨rfl, fun h => exec_call_of_lt h nnn, fun h => exec_call_of_full h nnn⟩

/-- Settles O25: the entry the return reads is the one the call has written, and no other entry was. -/
theorem returnUndoesCall : Obligations.ReturnUndoesCall := by
  intro s nnn there hsp
  refine ⟨_, exec_call_of_lt hsp nnn, ?_, fun k hk => ?_⟩
  · rw [exec_ret_of_pos (Nat.succ_pos _)]
    simp only [Nat.add_sub_cancel, Vector.getElem_set_self]
  · exact Vector.getElem_set_ne hsp k.isLt hk.symm

/-! ## Jumps -/

/-- Settles O23: each jump sets `PC` alone, to a sum that does not wrap. -/
theorem jumpsGoToTheirTargets : Obligations.JumpsGoToTheirTargets := fun s nnn =>
  ⟨rfl, rfl, ⟨s.setPc (zextAddr nnn), rfl, rfl, zextAddr_toNat nnn⟩,
    ⟨s.setPc (zextByte (s.reg 0) + zextAddr nnn), rfl, rfl, zextByte_add_zextAddr_toNat (s.reg 0) nnn⟩⟩

/-! ## Skips -/

theorem skipIf_beq (a b : Byte) (s : State) :
    skipIf (a == b) s = { s with pc := if a = b then s.pc + 2#16 else s.pc } := by
  by_cases h : a = b <;> simp [skipIf, State.setPc, h]

theorem skipIf_bne (a b : Byte) (s : State) :
    skipIf (a != b) s = { s with pc := if a = b then s.pc else s.pc + 2#16 } := by
  by_cases h : a = b <;> simp [skipIf, State.setPc, h]

/-- Settles O27: the words by the two formats, and the effects by the shared skip on an equality and on
its negation. -/
theorem skipsAddTwoWhenTheirConditionHolds : Obligations.SkipsAddTwoWhenTheirConditionHolds := by
  intro s x y nn
  refine ⟨packFXNN_eq_ofNat 0x3#4 x nn, packFXNN_eq_ofNat 0x4#4 x nn, packFXYN_eq_ofNat 0x5#4 x y 0x0#4,
    packFXYN_eq_ofNat 0x9#4 x y 0x0#4, ?_, ?_, ?_, ?_⟩
  · rw [exec, execSeImm, skipIf_beq]
  · rw [exec, execSneImm, skipIf_bne]
  · rw [exec, execSeReg, skipIf_beq]
  · rw [exec, execSneReg, skipIf_bne]

end Sys2Proof.Machine
end

section
/-! The two ways an instruction of 41_alu.md writes its result: to the destination alone, or to VF and then to
the destination (R175).  What each leaves in the registers, and that it changes nothing else. -/

namespace Sys2Proof.Machine

theorem onlyRegsChange_setReg (s : State) (x : Reg) (b : Byte) : OnlyRegsChange [x] s (s.setReg x b) := by
  refine ⟨rfl, fun r hr => ?_, fun _ => rfl⟩
  have hne : r ≠ x := mt List.mem_singleton.2 hr
  rw [State.reg_setReg, if_neg hne]

theorem onlyRegsChange_setFlagThenReg (s : State) (flag : Byte) (x : Reg) (b : Byte) :
    OnlyRegsChange [x, vf] s (s.setFlagThenReg flag x b) := by
  refine ⟨rfl, fun r hr => ?_, fun _ => rfl⟩
  obtain ⟨hx, hvf⟩ : r ≠ x ∧ r ≠ vf := by simpa using hr
  rw [State.reg_setFlagThenReg, if_neg hx, if_neg hvf]

/-- R175: the destination holds the result, also when it is VF. -/
theorem State.reg_setFlagThenReg_same (s : State) (flag : Byte) (x : Reg) (b : Byte) :
    (s.setFlagThenReg flag x b).reg x = b := by
  rw [State.reg_setFlagThenReg, if_pos rfl]

theorem State.reg_setFlagThenReg_vf (s : State) (flag : Byte) {x : Reg} (h : x ≠ vf) (b : Byte) :
    (s.setFlagThenReg flag x b).reg vf = flag := by
  rw [State.reg_setFlagThenReg, if_neg h.symm, if_pos rfl]

end Sys2Proof.Machine
end

section
/-! Register loads and the ALU (41_alu.md R162 to R176): the results and flags as numbers or bit by bit. -/

namespace Sys2Proof.Machine

/-! ## Results and flags as numbers (R168) -/

theorem toNat_sub_eq_emod (a b : Byte) : ((a - b).toNat : Int) = (a.toNat - b.toNat : Int) % 256 := by
  rw [BitVec.toNat_sub]
  omega

theorem toNat_shiftRight_one (a : Byte) : (a >>> 1).toNat = a.toNat / 2 := by
  rw [BitVec.toNat_ushiftRight, Nat.shiftRight_eq_div_pow, Nat.pow_one]

theorem toNat_shiftLeft_one (a : Byte) : (a <<< 1).toNat = a.toNat * 2 % 256 := by
  rw [BitVec.toNat_shiftLeft, Nat.shiftLeft_eq, Nat.pow_one]

theorem carryFlag_eq_ite (a b : Byte) :
    carryFlag a b = if a.toNat + b.toNat > 255 then 1#8 else 0#8 := by
  simp only [carryFlag, flagByte, decide_eq_true_eq]

theorem greaterFlag_eq_ite (a b : Byte) : greaterFlag a b = if a.toNat > b.toNat then 1#8 else 0#8 := by
  simp only [greaterFlag, flagByte, decide_eq_true_eq]

theorem flagByte_toNat (c : Bool) : (flagByte c).toNat = c.toNat := by
  cases c <;> rfl

theorem shiftOutLow_toNat (a : Byte) : (shiftOutLow a).toNat = a.toNat % 2 := by
  rw [shiftOutLow, flagByte_toNat, BitVec.getLsbD, Nat.toNat_testBit, Nat.pow_zero, Nat.div_one]

theorem shiftOutHigh_toNat (a : Byte) : (shiftOutHigh a).toNat = a.toNat / 128 := by
  rw [shiftOutHigh, flagByte_toNat, BitVec.getLsbD, Nat.toNat_testBit]
  omega

/-! ## Loads and bitwise instructions: one register, no flag -/

/-- Settles O28: each writes its destination and nothing else, and the sum is that of bytes. -/
theorem loadsAndAddImmediate : Obligations.LoadsAndAddImmediate := by
  intro s x y nn
  refine ⟨packFXNN_eq_ofNat 0x6#4 x nn, packFXNN_eq_ofNat 0x7#4 x nn, packFXYN_eq_ofNat 0x8#4 x y 0x0#4,
    ⟨s.setReg x nn, rfl, s.reg_setReg_same x nn, onlyRegsChange_setReg s x nn⟩,
    ⟨s.setReg x (s.reg x + nn), rfl, ?_, onlyRegsChange_setReg s x _⟩,
    ⟨s.setReg x (s.reg y), rfl, s.reg_setReg_same x _, onlyRegsChange_setReg s x _⟩⟩
  rw [State.reg_setReg_same, BitVec.toNat_add]

/-- Settles O29: each writes its destination alone, with the operation on bytes that acts bit by bit. -/
theorem bitwiseInstructions : Obligations.BitwiseInstructions := by
  intro s x y
  refine ⟨packFXYN_eq_ofNat 0x8#4 x y 0x1#4, packFXYN_eq_ofNat 0x8#4 x y 0x2#4,
    packFXYN_eq_ofNat 0x8#4 x y 0x3#4,
    ⟨s.setReg x (s.reg x ||| s.reg y), rfl, onlyRegsChange_setReg s x _, fun k => ?_⟩,
    ⟨s.setReg x (s.reg x &&& s.reg y), rfl, onlyRegsChange_setReg s x _, fun k => ?_⟩,
    ⟨s.setReg x (s.reg x ^^^ s.reg y), rfl, onlyRegsChange_setReg s x _, fun k => ?_⟩⟩
  · rw [State.reg_setReg_same, BitVec.getLsbD_or]
  · rw [State.reg_setReg_same, BitVec.getLsbD_and]
  · rw [State.reg_setReg_same, BitVec.getLsbD_xor]

/-! ## The instructions with a flag -/

/-- Settles O30: the sum is that of bytes, and the flag is computed from the operands before any write. -/
theorem addWithCarry : Obligations.AddWithCarry := by
  intro s x y
  refine ⟨packFXYN_eq_ofNat 0x8#4 x y 0x4#4,
    s.setFlagThenReg (carryFlag (s.reg x) (s.reg y)) x (s.reg x + s.reg y), rfl,
    onlyRegsChange_setFlagThenReg s _ x _, ?_, fun hx => ?_⟩
  · rw [State.reg_setFlagThenReg_same, BitVec.toNat_add]
  · rw [State.reg_setFlagThenReg_vf s _ hx, carryFlag_eq_ite]

/-- `8XY5` and `8XY7` differ in which operand is the minuend `a` and which the subtrahend `b`. -/
theorem setFlagThenReg_sub (s : State) (x : Reg) (a b : Byte) :
    let t := s.setFlagThenReg (greaterFlag a b) x (a - b)
    OnlyRegsChange [x, vf] s t ∧ ((t.reg x).toNat : Int) = (a.toNat - b.toNat : Int) % 256 ∧
      (x ≠ vf → t.reg vf = if a.toNat > b.toNat then 1#8 else 0#8) := by
  refine ⟨onlyRegsChange_setFlagThenReg s _ x _, ?_, fun hx => ?_⟩
  · rw [State.reg_setFlagThenReg_same, toNat_sub_eq_emod]
  · rw [State.reg_setFlagThenReg_vf s _ hx, greaterFlag_eq_ite]

/-- Settles O31: one subtraction, with the operands in either order. -/
theorem subtractBothWays : Obligations.SubtractBothWays := fun s x y =>
  ⟨packFXYN_eq_ofNat 0x8#4 x y 0x5#4, packFXYN_eq_ofNat 0x8#4 x y 0x7#4,
    ⟨_, rfl, setFlagThenReg_sub s x (s.reg x) (s.reg y)⟩,
    ⟨_, rfl, setFlagThenReg_sub s x (s.reg y) (s.reg x)⟩⟩

/-- Settles O32: the shifts halve and double, and bits 0 and 7 are the remainder by 2 and the quotient
by 128. -/
theorem shiftsByOne : Obligations.ShiftsByOne := by
  intro s x y
  refine ⟨packFXYN_eq_ofNat 0x8#4 x y 0x6#4, packFXYN_eq_ofNat 0x8#4 x y 0xE#4,
    ⟨s.setFlagThenReg (shiftOutLow (s.reg x)) x (s.reg x >>> 1), rfl,
      onlyRegsChange_setFlagThenReg s _ x _, ?_, fun hx => ?_⟩,
    ⟨s.setFlagThenReg (shiftOutHigh (s.reg x)) x (s.reg x <<< 1), rfl,
      onlyRegsChange_setFlagThenReg s _ x _, ?_, fun hx => ?_⟩⟩
  · rw [State.reg_setFlagThenReg_same, toNat_shiftRight_one]
  · rw [State.reg_setFlagThenReg_vf s _ hx, shiftOutLow_toNat]
  · rw [State.reg_setFlagThenReg_same, toNat_shiftLeft_one]
  · rw [State.reg_setFlagThenReg_vf s _ hx, shiftOutHigh_toNat]

/-! ## The random byte -/

/-- Settles O33: the write of the masked draw changes only its destination from the state after the draw, and
a masked byte is at most its mask. -/
theorem randomIsAMaskedFreeDraw : Obligations.RandomIsAMaskedFreeDraw := by
  intro s x nn
  refine ⟨packFXNN_eq_ofNat 0xC#4 x nn, s.afterDraw.setReg x (s.drawnByte &&& nn), rfl, fun k => ?_, ?_, rfl,
    onlyRegsChange_setReg s.afterDraw x _⟩
  · rw [State.reg_setReg_same, BitVec.getLsbD_and, State.drawnByte]
  · rw [State.reg_setReg_same, BitVec.toNat_and]
    exact Nat.and_le_right

end Sys2Proof.Machine
end

section
/-! The encoded word of format `FX` (30_encoding.md R103), in the order of terms the obligations write it. -/

namespace Sys2Proof

theorem packFX_eq_ofNat (c : Nibble) (x : Reg) (ss : Byte) :
    packFXNN c x ss = BitVec.ofNat 16 (c.toNat * 4096 + ss.toNat + 0x100 * x.val) := by
  rw [packFXNN_eq_ofNat, Nat.add_right_comm]

end Sys2Proof
end

section
/-! The transfers of 42_index_memory.md as loops over the offsets from `I`.  Round `k` accesses the address
`I + k`, so such a loop ends at the first address outside memory (60_exceptions.md R304, R314). -/

namespace Sys2Proof.Machine

/-! ## The effective addresses of a transfer -/

theorem State.indexed_toNat (s : State) {k : Nat} (h : s.index.toNat + k < 65536) :
    (s.indexed k).toNat = s.index.toNat + k := by
  rw [State.indexed, BitVec.toNat_add, BitVec.toNat_ofNat]
  omega

theorem State.indexed_inside (s : State) {k : Nat} (h : s.index.toNat + k < 4096) :
    (s.indexed k).toNat < 4096 := by
  rwa [s.indexed_toNat (by omega)]

theorem State.indexed_ne (s : State) {j k : Nat} (hjk : j < k) (hk : s.index.toNat + k < 65536) :
    s.indexed j ≠ s.indexed k := by
  intro h
  have := congrArg BitVec.toNat h
  rw [s.indexed_toNat (by omega), s.indexed_toNat hk] at this
  omega

/-- The first address outside memory that a transfer from `I` on can reach. -/
def State.firstOutside (s : State) : Addr := if s.index.toNat < 4096 then 0x1000#16 else s.index

theorem State.indexed_firstOutside (s : State) : s.indexed (4096 - s.index.toNat) = s.firstOutside := by
  apply BitVec.eq_of_toNat_eq
  unfold State.firstOutside
  split
  · rw [s.indexed_toNat (by omega)]
    exact Nat.add_sub_of_le (by omega)
  · rw [s.indexed_toNat (by omega)]
    omega

theorem State.firstOutside_ge (s : State) : 4096 ≤ s.firstOutside.toNat := by
  unfold State.firstOutside
  split
  · decide
  · omega

/-! ## Loops over offsets -/

theorem forEach_map {α β : Type} (f : β → State → Attempt) (g : α → β) (as : List α) (s : State) :
    forEach f (as.map g) s = forEach (fun a => f (g a)) as s := by
  induction as generalizing s with
  | nil => rfl
  | cons a as ih =>
    rw [List.map_cons, forEach_cons, forEach_cons]
    congr 1
    exact funext ih

theorem forEach_range_succ (f : Nat → State → Attempt) (n : Nat) (s : State) :
    forEach f (List.range (n + 1)) s = (forEach f (List.range n) s).andThen (f n) := by
  rw [List.range_succ, forEach_append]
  congr 1
  funext t
  rw [forEach_cons]
  cases f n t <;> rfl

/-- A round that raises a fault ends the loop. -/
theorem forEach_range_raised {f : Nat → State → Attempt} {m n : Nat} {s t u : State} (hmn : m < n)
    (hdone : forEach f (List.range m) s = .done t) (hraised : f m t = .raised u) :
    forEach f (List.range n) s = .raised u := by
  induction n, hmn using Nat.le_induction with
  | base => rw [forEach_range_succ, hdone, Attempt.done_andThen, hraised]
  | succ n _ ih => rw [forEach_range_succ, ih, Attempt.raised_andThen]

/-- A loop of `n` rounds whose round `k` accesses `I + k`.  `P k` says what the first `k` rounds have done. -/
structure TransferLoop (f : Nat → State → Attempt) (c : FaultCause) (n : Nat) (s : State)
    (P : Nat → State → Prop) : Prop where
  start : P 0 s
  inside : ∀ k < n, ∀ t, P k t → s.index.toNat + k < 4096 → ∃ u, f k t = .done u ∧ P (k + 1) u
  outside : ∀ k < n, ∀ t, P k t → 4096 ≤ (s.indexed k).toNat → f k t = raise c (s.indexed k) t

namespace TransferLoop

variable {f : Nat → State → Attempt} {c : FaultCause} {n : Nat} {s : State} {P : Nat → State → Prop}

theorem done_upTo (hf : TransferLoop f c n s P) {m : Nat} (hmn : m ≤ n)
    (hm : ∀ k < m, s.index.toNat + k < 4096) : ∃ t, forEach f (List.range m) s = .done t ∧ P m t := by
  induction m with
  | zero => exact ⟨s, rfl, hf.start⟩
  | succ m ih =>
    obtain ⟨t, hloop, ht⟩ := ih (by omega) fun k hk => hm k (by omega)
    obtain ⟨u, hround, hu⟩ := hf.inside m hmn t ht (hm m (by omega))
    exact ⟨u, by rw [forEach_range_succ, hloop, Attempt.done_andThen, hround], hu⟩

/-- An instruction that is such a loop answers the state after its last round. -/
theorem exec_done (hf : TransferLoop f c n s P) {i : Instr}
    (hi : exec i s = .next (forEach f (List.range n) s).state) (h : s.index.toNat + n ≤ 4096) :
    ∃ t, exec i s = .next t ∧ P n t := by
  obtain ⟨t, hloop, ht⟩ := hf.done_upTo le_rfl fun k hk => by omega
  exact ⟨t, by rw [hi, hloop, Attempt.state_done], ht⟩

/-- R304, R311, R314: the rounds before the first address outside memory are done, and that address is the
info of the fault. -/
theorem exec_raised (hf : TransferLoop f c n s P) {i : Instr}
    (hi : exec i s = .next (forEach f (List.range n) s).state) (h : 4096 < s.index.toNat + n) (hn : 0 < n) :
    ∃ t, exec i s = .next (takeFault c (t.pc - 2#16) s.firstOutside t) ∧ P (4096 - s.index.toNat) t := by
  have hlt : 4096 - s.index.toNat < n := by omega
  obtain ⟨t, hloop, ht⟩ := hf.done_upTo hlt.le fun k hk => by omega
  have hround := hf.outside _ hlt t ht (s.indexed_firstOutside ▸ s.firstOutside_ge)
  rw [s.indexed_firstOutside, raise_eq] at hround
  exact ⟨t, by rw [hi, forEach_range_raised hlt hloop hround, Attempt.state_raised], ht⟩

end TransferLoop

/-! ## Stores -/

/-- `t` is `s` with the bytes `w 0` to `w (n - 1)` stored from `I` on, and nothing else changed. -/
structure Stored (w : Nat → Byte) (n : Nat) (s t : State) : Prop where
  frame : t = { s with mem := t.mem }
  written : ∀ k < n, t.byteAt (s.indexed k) = some (w k)
  kept : ∀ a, (∀ k < n, a ≠ s.indexed k) → t.byteAt a = s.byteAt a

theorem Stored.zero (w : Nat → Byte) (s : State) : Stored w 0 s s :=
  ⟨rfl, fun _ hk => absurd hk (Nat.not_lt_zero _), fun _ _ => rfl⟩

section

variable {w : Nat → Byte} {n k : Nat} {s t : State}

theorem Stored.pc (ht : Stored w n s t) : t.pc = s.pc := by
  rw [ht.frame]

theorem Stored.index (ht : Stored w n s t) : t.index = s.index := by
  rw [ht.frame]

theorem Stored.write (ht : Stored w k s t)
    (hk : s.index.toNat + k < 4096) :
    Stored w (k + 1) s (t.setMem (t.mem.write (s.indexed k).toNat (w k))) where
  frame := congrArg (fun u => u.setMem (t.mem.write (s.indexed k).toNat (w k))) ht.frame
  written j hj := by
    rcases Nat.lt_or_eq_of_le (Nat.le_of_lt_succ hj) with hlt | rfl
    · rw [t.byteAt_setMem_write_other (s.indexed_ne hlt (by omega)), ht.written j hlt]
    · exact t.byteAt_setMem_write_same (s.indexed_inside hk) _
  kept a ha := by
    rw [t.byteAt_setMem_write_other (ha k (by omega)), ht.kept a fun j hj => ha j (by omega)]

end

/-- A loop that writes `w k` in round `k`, whatever the rounds before have stored. -/
theorem storeLoop {f : Nat → State → Attempt} {w : Nat → Byte} {n : Nat} {s : State}
    (hf : ∀ k < n, ∀ m, f k (s.setMem m) = memWrite (s.indexed k) (w k) (s.setMem m)) :
    TransferLoop f .writeOutOfRange n s (fun k => Stored w k s) := by
  have hround : ∀ k < n, ∀ t, Stored w k s t → f k t = memWrite (s.indexed k) (w k) t := by
    intro k hk t ht
    rw [ht.frame]
    exact hf k hk t.mem
  refine ⟨.zero w s, fun k hk t ht hin => ⟨_, ?_, ht.write hin⟩, fun k hk t ht hout => ?_⟩
  · rw [hround k hk t ht, memWrite_inside (s.indexed_inside hin)]
  · rw [hround k hk t ht, memWrite_outside hout]

/-! ## Loads -/

/-- `t` is `s` with `V[0]` to `V[n - 1]` loaded from `I` on, and nothing else changed. -/
structure Loaded (n : Nat) (s t : State) : Prop where
  frame : t = { s with v := t.v }
  read : ∀ k : Reg, k.val < n → s.byteAt (s.indexed k.val) = some (t.reg k)
  kept : ∀ k : Reg, n ≤ k.val → t.reg k = s.reg k

theorem Loaded.zero (s : State) : Loaded 0 s s :=
  ⟨rfl, fun _ hk => absurd hk (Nat.not_lt_zero _), fun _ _ => rfl⟩

theorem Loaded.pc {n : Nat} {s t : State} (ht : Loaded n s t) : t.pc = s.pc := by
  rw [ht.frame]

theorem Loaded.byteAt {n : Nat} {s t : State} (ht : Loaded n s t) (a : Addr) : t.byteAt a = s.byteAt a := by
  rw [ht.frame]
  rfl

theorem Loaded.setReg {s t : State} {k : Reg} {b : Byte} (ht : Loaded k.val s t)
    (hb : s.byteAt (s.indexed k.val) = some b) : Loaded (k.val + 1) s (t.setReg k b) where
  frame := congrArg (fun u => u.setReg k b) ht.frame
  read j hj := by
    by_cases h : j = k
    · rw [h, State.reg_setReg_same, hb]
    · have hlt : j.val < k.val := Nat.lt_of_le_of_ne (Nat.le_of_lt_succ hj) (Fin.val_ne_of_ne h)
      rw [State.reg_setReg, if_neg h, ht.read j hlt]
  kept j hj := by
    rw [State.reg_setReg, if_neg (Fin.ne_of_val_ne (by omega)), ht.kept j (by omega)]

/-- Round `k` loads `V[k]`; the rounds before have not changed memory. -/
theorem loadLoop (s : State) (x : Reg) :
    TransferLoop (fun k => loadReg (Fin.ofNat 16 k)) .readOutOfRange (x.val + 1) s
      (fun k => Loaded k s) := by
  have hround : ∀ k : Reg, ∀ t, Loaded k.val s t → loadReg (Fin.ofNat 16 k.val) t =
      memRead (s.indexed k.val) (fun b u => .done (u.setReg k b)) t := by
    intro k t ht
    rw [Fin.ofNat_val_eq_self, ht.frame]
    rfl
  refine ⟨.zero s, fun k hk t ht hin => ?_, fun k hk t ht hout => ?_⟩
  · obtain ⟨r, rfl⟩ : ∃ r : Reg, r.val = k := ⟨⟨k, by omega⟩, rfl⟩
    have hs := s.byteAt_inside (s.indexed_inside hin)
    exact ⟨_, (hround r t ht).trans (memRead_of_byteAt ((ht.byteAt _).trans hs) _), ht.setReg hs⟩
  · exact (hround ⟨k, by omega⟩ t ht).trans (memRead_outside hout _ t)

end Sys2Proof.Machine
end

section
/-! The three instructions that transfer memory (42_index_memory.md R203, R204, R205) as such loops. -/

namespace Sys2Proof.Machine

/-! ## The registers and the digits that are moved -/

theorem regsThrough_eq (x : Reg) : regsThrough x = (List.range (x.val + 1)).map (Fin.ofNat 16) := by
  have hall : List.finRange 16 = (List.range 16).map (Fin.ofNat 16) := by decide
  rw [regsThrough, hall, ← List.map_take, List.take_range, Nat.min_eq_left (by omega)]

/-- The digit `FX33` stores at offset `k`: hundreds, tens, units. -/
def bcdDigit (b : Byte) : Nat → Byte
  | 0 => BitVec.ofNat 8 (b.toNat / 100)
  | 1 => BitVec.ofNat 8 (b.toNat / 10 % 10)
  | _ => BitVec.ofNat 8 (b.toNat % 10)

theorem bcdDigits_eq (b : Byte) : bcdDigits b = (List.range 3).map fun k => (k, bcdDigit b k) := rfl

/-- R203: the digits are decimal digits and reconstruct the byte. -/
theorem bcdDigit_spec (b : Byte) :
    100 * (bcdDigit b 0).toNat + 10 * (bcdDigit b 1).toNat + (bcdDigit b 2).toNat = b.toNat ∧
      (bcdDigit b 0).toNat ≤ 2 ∧ (bcdDigit b 1).toNat ≤ 9 ∧ (bcdDigit b 2).toNat ≤ 9 := by
  simp only [bcdDigit, BitVec.toNat_ofNat]
  omega

/-! ## What the three instructions leave -/

/-- The byte `FX55` stores at offset `k`. -/
def State.regByte (s : State) (k : Nat) : Byte := s.reg (Fin.ofNat 16 k)

theorem State.regByte_val (s : State) (k : Reg) : s.regByte k.val = s.reg k := by
  rw [State.regByte, Fin.ofNat_val_eq_self]

theorem storeDigitLoop (b : Byte) (s : State) :
    TransferLoop (fun k => storeDigit (k, bcdDigit b k)) .writeOutOfRange 3 s
      (fun k => Stored (bcdDigit b) k s) :=
  storeLoop fun _ _ _ => rfl

theorem storeRegLoop (s : State) (x : Reg) :
    TransferLoop (fun k => storeReg (Fin.ofNat 16 k)) .writeOutOfRange (x.val + 1) s
      (fun k => Stored s.regByte k s) := by
  refine storeLoop fun k hk m => ?_
  have hval : (Fin.ofNat 16 k).val = k := Nat.mod_eq_of_lt (by omega)
  rw [storeReg, hval]
  rfl

theorem exec_ldB_eq (x : Reg) (s : State) : exec (.ldB x) s =
    .next (forEach (fun k => storeDigit (k, bcdDigit (s.reg x) k)) (List.range 3) s).state := by
  rw [exec, execLdB, bcdDigits_eq, forEach_map, Attempt.outcome_eq]

theorem exec_ldMemVx_eq (x : Reg) (s : State) : exec (.ldMemVx x) s =
    .next (forEach (fun k => storeReg (Fin.ofNat 16 k)) (List.range (x.val + 1)) s).state := by
  rw [exec, execLdMemVx, regsThrough_eq, forEach_map, Attempt.outcome_eq]

theorem exec_ldVxMem_eq (x : Reg) (s : State) : exec (.ldVxMem x) s =
    .next (forEach (fun k => loadReg (Fin.ofNat 16 k)) (List.range (x.val + 1)) s).state := by
  rw [exec, execLdVxMem, regsThrough_eq, forEach_map, Attempt.outcome_eq]

end Sys2Proof.Machine
end

section
/-! The index pointer and memory transfer (42_index_memory.md): the obligations. -/

namespace Sys2Proof.Machine

/-! ## Transfers inside memory -/

/-- Settles O36: the loop of the register store run to its end. -/
theorem storeRegistersWritesV0ToVX : Obligations.StoreRegistersWritesV0ToVX := by
  refine fun s x => ⟨packFX_eq_ofNat 0xF#4 x 0x55#8, fun h => ?_⟩
  obtain ⟨t, hexec, ht⟩ := (storeRegLoop s x).exec_done (exec_ldMemVx_eq x s) h
  refine ⟨t, hexec, ht.frame, fun k hk => ?_, fun a ha => ht.kept a fun k hk => ?_⟩
  · rw [ht.written k.val (Nat.lt_succ_of_le hk), s.regByte_val]
  · exact ha ⟨k, by omega⟩ (Nat.le_of_lt_succ hk)

/-- Settles O37: the loop of the load run to its end. -/
theorem loadRegistersReadsV0ToVX : Obligations.LoadRegistersReadsV0ToVX := by
  refine fun s x => ⟨packFX_eq_ofNat 0xF#4 x 0x65#8, fun h => ?_⟩
  obtain ⟨t, hexec, ht⟩ := (loadLoop s x).exec_done (exec_ldVxMem_eq x s) h
  refine ⟨t, hexec, ⟨ht.frame, fun k hk => ht.kept k ?_, ht.byteAt⟩,
    fun k hk => ht.read k (Nat.lt_succ_of_le hk)⟩
  have hk : ¬ k ≤ x := by simpa using hk
  exact Nat.lt_of_not_le hk

/-- Settles O38: the load reads from each address the byte the store has written there. -/
theorem storeThenLoadRestoresRegisters : Obligations.StoreThenLoadRestoresRegisters := by
  intro s x junk h
  obtain ⟨t, hstore, ht⟩ := (storeRegLoop s x).exec_done (exec_ldMemVx_eq x s) h
  obtain ⟨u, hload, hu⟩ := (loadLoop { t with v := junk } x).exec_done (exec_ldVxMem_eq x _) (ht.index ▸ h)
  refine ⟨t, u, hstore, hload, fun k hk => ?_, fun k hk => hu.kept k hk, hu.frame⟩
  have hwritten : t.byteAt (t.indexed k.val) = some (s.reg k) := by
    rw [State.indexed, ht.index, ← s.regByte_val]
    exact ht.written k.val (Nat.lt_succ_of_le hk)
  exact Option.some.inj ((hu.read k (Nat.lt_succ_of_le hk)).symm.trans hwritten)

/-- Settles O35: the loop of the BCD store run to its end. -/
theorem storeBcdWritesTheThreeDigits : Obligations.StoreBcdWritesTheThreeDigits := by
  refine fun s x => ⟨packFX_eq_ofNat 0xF#4 x 0x33#8, fun h => ?_⟩
  obtain ⟨t, hexec, ht⟩ := (storeDigitLoop (s.reg x) s).exec_done (exec_ldB_eq x s) h
  obtain ⟨hsum, hh, hd, hu⟩ := bcdDigit_spec (s.reg x)
  refine ⟨t, _, _, _, hexec, ht.frame, ht.written 0 (by decide), ht.written 1 (by decide),
    ht.written 2 (by decide), hsum, hh, hd, hu, fun a h0 h1 h2 => ht.kept a fun k hk => ?_⟩
  interval_cases k
  · exact h0
  · exact h1
  · exact h2

/-! ## Transfers past memory -/

/-- Settles O39: both loops end at the first address outside, with the rounds before it done. -/
theorem storesPastMemoryFault : Obligations.StoresPastMemoryFault := by
  refine fun s x => ⟨fun h => ?_, fun h => ?_⟩
  · obtain ⟨t, hexec, ht⟩ :=
      (storeDigitLoop (s.reg x) s).exec_raised (exec_ldB_eq x s) (by omega) (by decide)
    rw [ht.pc] at hexec
    refine ⟨_, hexec, congrArg (takeFault _ _ _) ht.frame, rfl, fun h0 => ht.written 0 (by omega),
      fun h1 => ht.written 1 (by omega), fun a ha => ht.kept a fun k hk => ha k (by omega) (by omega)⟩
  · obtain ⟨t, hexec, ht⟩ := (storeRegLoop s x).exec_raised (exec_ldMemVx_eq x s) (by omega) (by omega)
    rw [ht.pc] at hexec
    refine ⟨_, hexec, congrArg (takeFault _ _ _) ht.frame, rfl, fun k hk hin => ?_,
      fun a ha => ht.kept a fun k hk => ?_⟩
    · rw [byteAt_takeFault, ht.written k.val (by omega), s.regByte_val]
    · have hle : k ≤ x.val := by omega
      have hin : s.index.toNat + k < 4096 := by omega
      exact ha ⟨k, by omega⟩ hle hin

/-- Settles O40: the loop ends at the first address outside, with the rounds before it done. -/
theorem loadPastMemoryFaults : Obligations.LoadPastMemoryFaults := by
  intro s x h
  obtain ⟨t, hexec, ht⟩ := (loadLoop s x).exec_raised (exec_ldVxMem_eq x s) (by omega) (by omega)
  rw [ht.pc] at hexec
  refine ⟨_, hexec, congrArg (takeFault _ _ _) ht.frame, rfl, fun k hin _ => ht.read k (by omega),
    fun k hk => ht.kept k ?_⟩
  rcases hk with hout | hlt
  · omega
  · have hlt : x.val < k.val := hlt
    omega

/-! ## The index pointer -/

theorem glyphAddr_toNat (b : Byte) : (glyphAddr b).toNat = 0x050 + 5 * b.toNat := by
  rw [glyphAddr, BitVec.toNat_add, BitVec.toNat_mul, zextByte_toNat]
  simp only [Config.glyphBase, BitVec.toNat_ofNat]
  omega

/-- Settles O34: each sets `I` alone; the glyph address of the largest byte, 0x54B, does not wrap. -/
theorem indexInstructions : Obligations.IndexInstructions := by
  refine fun s x nnn => ⟨rfl, packFX_eq_ofNat 0xF#4 x 0x1E#8, packFX_eq_ofNat 0xF#4 x 0x29#8,
    ⟨s.setIndex (zextAddr nnn), rfl, rfl, zextAddr_toNat nnn⟩,
    ⟨s.setIndex (s.index + zextByte (s.reg x)), rfl, rfl, ?_⟩,
    ⟨s.setIndex (glyphAddr (s.reg x)), rfl, rfl, glyphAddr_toNat (s.reg x)⟩⟩
  rw [State.setIndex_index, BitVec.toNat_add, zextByte_toNat]

end Sys2Proof.Machine
end

section
/-! The pixels of a sprite (43_display.md R231, R232): which ones lie on the grid, which come before which in
the order `DXYN` draws them, and what the state is after some of them. -/

namespace Sys2Proof.Machine

/-! ## The pixels of a sprite and their order -/

/-- The byte of row `r` of a sprite, when the row can be read. -/
def State.spriteByte (s : State) (r : Nat) : Byte := s.mem.read (s.index.toNat + r)

/-- R231: the bit at column offset `c` of sprite row `r`, if set, is inside the grid. -/
def BitInside (s : State) (x y : Reg) (r c : Nat) : Prop :=
  spriteBit (s.spriteByte r) c = true → spriteColumn (s.reg x) + c < 64 ∧ spriteRow (s.reg y) + r < 32

section
variable {s t : State} {x y : Reg} {n : Nibble}

theorem spriteCovers_bounds {px py : Nat} (h : spriteCovers s x y n px py = true) :
    spriteColumn (s.reg x) ≤ px ∧ px < spriteColumn (s.reg x) + 8 ∧
      spriteRow (s.reg y) ≤ py ∧ py < spriteRow (s.reg y) + n.toNat :=
  of_decide_eq_true (Bool.and_eq_true_iff.1 h).1

theorem spriteCovers_offset (x y : Reg) {r c : Nat} (hr : r < n.toNat) (hc : c < 8) :
    spriteCovers s x y n (spriteColumn (s.reg x) + c) (spriteRow (s.reg y) + r) =
      spriteBit (s.spriteByte r) c := by
  simp [spriteCovers, spriteColumn, spriteRow, Config.fbWidth, Config.fbHeight, spriteBit,
    State.spriteByte, hr, hc]

/-- Which pixels a sprite covers depends on its coordinates, `I` and memory alone. -/
theorem spriteCovers_congr (hx : t.reg x = s.reg x) (hy : t.reg y = s.reg y) (hindex : t.index = s.index)
    (hmem : t.mem = s.mem) (px py : Nat) : spriteCovers t x y n px py = spriteCovers s x y n px py := by
  simp only [spriteCovers, hx, hy, hindex, hmem]

theorem spriteRowFits_iff (x y : Reg) {r : Nat} (hr : r < n.toNat) :
    spriteRowFits s x y n r ↔ s.index.toNat + r < 4096 ∧ ∀ c < 8, BitInside s x y r c := by
  refine and_congr_right fun _ => ⟨fun h c hc hbit => h _ ?_, fun h px hpx => ?_⟩
  · exact (spriteCovers_offset x y hr hc).trans hbit
  · obtain ⟨hle, hlt, -, -⟩ := spriteCovers_bounds hpx
    obtain ⟨c, rfl⟩ := Nat.exists_eq_add_of_le hle
    have hc : c < 8 := by omega
    exact h c hc ((spriteCovers_offset x y hr hc).symm.trans hpx)

end

/-- The pixels of the sprite that come before column offset `c` of row `r` in the order `DXYN` draws them. -/
def coversBefore (s : State) (x y : Reg) (n : Nibble) (r c : Nat) (px : Fin 64) (py : Fin 32) : Bool :=
  spriteCovers s x y n px py && decide (py.val < spriteRow (s.reg y) + r ∨
    (py.val = spriteRow (s.reg y) + r ∧ px.val < spriteColumn (s.reg x) + c))

section
variable {s : State} {x y : Reg} {n : Nibble} {r c : Nat}

/-- Two conditions that agree inside the sprite's rectangle select the same pixels of the sprite. -/
theorem spriteCovers_and_congr {P Q : Prop} [Decidable P] [Decidable Q] {px py : Nat}
    (h : spriteColumn (s.reg x) ≤ px → px < spriteColumn (s.reg x) + 8 → spriteRow (s.reg y) ≤ py →
      py < spriteRow (s.reg y) + n.toNat → (P ↔ Q)) :
    (spriteCovers s x y n px py && decide P) = (spriteCovers s x y n px py && decide Q) := by
  cases hcov : spriteCovers s x y n px py with
  | false => rfl
  | true =>
    obtain ⟨hx₀, hx₁, hy₀, hy₁⟩ := spriteCovers_bounds hcov
    rw [decide_eq_decide.2 (h hx₀ hx₁ hy₀ hy₁)]

theorem coversBefore_start (px : Fin 64) (py : Fin 32) : coversBefore s x y n 0 0 px py = false :=
  (spriteCovers_and_congr (Q := False) fun _ _ _ _ => iff_of_false (by omega) id).trans (Bool.and_false _)

theorem coversBefore_rowEnd (s : State) (x y : Reg) (n : Nibble) (r : Nat) :
    coversBefore s x y n r 8 = coversBefore s x y n (r + 1) 0 :=
  funext₂ fun _ _ => spriteCovers_and_congr fun _ _ _ _ => by omega

theorem coversBefore_end (px : Fin 64) (py : Fin 32) :
    coversBefore s x y n n.toNat 0 px py = spriteCovers s x y n px py :=
  (spriteCovers_and_congr (Q := True) fun _ _ _ _ => iff_of_true (by omega) trivial).trans (Bool.and_true _)

/-- R311: a row that cannot be read has none of its pixels drawn. -/
theorem coversBefore_of_unreadable (h : 4096 ≤ s.index.toNat + r) :
    coversBefore s x y n r 0 = drawnBeforeFault s x y n r := by
  refine funext₂ fun px py => spriteCovers_and_congr fun _ _ _ _ => ?_
  change _ ↔ py.val < spriteRow (s.reg y) + r ∨ py.val = spriteRow (s.reg y) + r ∧ _
  omega

/-- R311: what comes before a pixel outside the grid is all of its row that is inside. -/
theorem coversBefore_of_outside (h : s.index.toNat + r < 4096)
    (hout : 64 ≤ spriteColumn (s.reg x) + c ∨ 32 ≤ spriteRow (s.reg y) + r) :
    coversBefore s x y n r c = drawnBeforeFault s x y n r := by
  refine funext₂ fun px py => spriteCovers_and_congr fun _ _ _ _ => ?_
  change _ ↔ py.val < spriteRow (s.reg y) + r ∨ py.val = spriteRow (s.reg y) + r ∧ _
  omega

theorem coversBefore_self (hx : spriteColumn (s.reg x) + c < 64) (hy : spriteRow (s.reg y) + r < 32) :
    coversBefore s x y n r c ⟨_, hx⟩ ⟨_, hy⟩ = false := by
  simp [coversBefore]

theorem coversBefore_succ_self (hx : spriteColumn (s.reg x) + c < 64) (hy : spriteRow (s.reg y) + r < 32) :
    coversBefore s x y n r (c + 1) ⟨_, hx⟩ ⟨_, hy⟩ =
      spriteCovers s x y n (spriteColumn (s.reg x) + c) (spriteRow (s.reg y) + r) := by
  simp [coversBefore]

theorem coversBefore_succ_other {px : Fin 64} {py : Fin 32}
    (h : ¬ (px.val = spriteColumn (s.reg x) + c ∧ py.val = spriteRow (s.reg y) + r)) :
    coversBefore s x y n r (c + 1) px py = coversBefore s x y n r c px py :=
  spriteCovers_and_congr fun _ _ _ _ => by omega

/-- A clear bit adds no pixel. -/
theorem coversBefore_succ_of_clear
    (h : spriteCovers s x y n (spriteColumn (s.reg x) + c) (spriteRow (s.reg y) + r) = false) :
    coversBefore s x y n r (c + 1) = coversBefore s x y n r c := by
  funext px py
  by_cases hhere : px.val = spriteColumn (s.reg x) + c ∧ py.val = spriteRow (s.reg y) + r
  · rw [coversBefore, coversBefore, hhere.1, hhere.2, h, Bool.false_and, Bool.false_and]
  · exact coversBefore_succ_other hhere

end

/-! ## The state after some pixels -/

theorem Framebuffer.ext_get {fb fb' : Framebuffer} (h : ∀ px py, fb.get px py = fb'.get px py) : fb = fb' :=
  Vector.ext fun py hpy => Vector.ext fun px hpx => h ⟨px, hpx⟩ ⟨py, hpy⟩

/-- One of the pixels in `p` is on. -/
def Collides (p : Fin 64 → Fin 32 → Bool) (s : State) : Prop :=
  ∃ px py, s.fb.get px py = true ∧ p px py = true

/-- `t` is `s` with the pixels in `p` turned over and VF saying whether one of them was on. -/
structure Drawn (p : Fin 64 → Fin 32 → Bool) (s t : State) : Prop where
  frame : t = { s with v := t.v, fb := t.fb }
  kept : ∀ k, k ≠ vf → t.reg k = s.reg k
  pixel : ∀ px py, t.fb.get px py = (s.fb.get px py ^^ p px py)
  set : Collides p s → t.reg vf = 1#8
  clear : ¬ Collides p s → t.reg vf = 0#8

namespace Drawn

variable {p q : Fin 64 → Fin 32 → Bool} {s t : State}

theorem pc (h : Drawn p s t) : t.pc = s.pc := by rw [h.frame]

theorem index (h : Drawn p s t) : t.index = s.index := by rw [h.frame]

theorem mem (h : Drawn p s t) : t.mem = s.mem := by rw [h.frame]

theorem indexed (h : Drawn p s t) (k : Nat) : t.indexed k = s.indexed k := by
  rw [State.indexed, State.indexed, h.index]

theorem spriteByte (h : Drawn p s t) (r : Nat) : t.spriteByte r = s.spriteByte r := by
  rw [State.spriteByte, State.spriteByte, h.index, h.mem]

theorem fault (h : Drawn p s t) : t.fault = s.fault := by rw [h.frame]

theorem onlyRegsChange (h : Drawn p s t) : OnlyRegsChange [vf] { s with fb := t.fb } t :=
  ⟨h.frame, fun k hk => h.kept k (List.ne_of_not_mem_cons hk), State.byteAt_congr h.mem⟩

theorem clear_of_forall (h : Drawn p s t) (hoff : ∀ px py, s.fb.get px py = true → p px py = false) :
    t.reg vf = 0#8 := by
  refine h.clear ?_
  rintro ⟨px, py, hon, hp⟩
  exact absurd ((hoff px py hon).symm.trans hp) (by decide)

theorem vf_le_one (h : Drawn p s t) : (t.reg vf).toNat ≤ 1 := by
  by_cases hc : Collides p s
  · rw [h.set hc]; decide
  · rw [h.clear hc]; decide

theorem vf_eq_one_iff (h : Drawn p s t) : t.reg vf = 1#8 ↔ Collides p s := by
  refine ⟨fun hvf => by_contra fun hc => ?_, h.set⟩
  rw [h.clear hc] at hvf
  exact absurd hvf (by decide)

/-- R231: VF is cleared before anything is drawn. -/
theorem start (hp : ∀ px py, p px py = false) : Drawn p s (s.setReg vf 0#8) where
  frame := rfl
  kept k hk := by rw [State.reg_setReg, if_neg hk]
  pixel px py := by rw [hp, Bool.xor_false, State.setReg_fb]
  set := by
    rintro ⟨px, py, -, hpx⟩
    rw [hp] at hpx
    cases hpx
  clear _ := State.reg_setReg_same s vf 0#8

/-- One more pixel is turned over, which then is in the set. -/
theorem flip (h : Drawn p s t) {px : Fin 64} {py : Fin 32} (hp : p px py = false) (hq : q px py = true)
    (hother : ∀ px' py', ¬ (px' = px ∧ py' = py) → q px' py' = p px' py') :
    Drawn q s (flipPixel px py t) := by
  have hhere : t.fb.get px py = s.fb.get px py := by rw [h.pixel, hp, Bool.xor_false]
  have hpixel (px' py') :
      (t.fb.put px py (!s.fb.get px py)).get px' py' = (s.fb.get px' py' ^^ q px' py') := by
    rw [Framebuffer.get_put]
    split
    next heq => rw [heq.1, heq.2, hq, Bool.xor_true]
    next hne => rw [h.pixel, hother px' py' hne]
  rcases flipPixel_cases px py t with ⟨hon, heq⟩ | ⟨hoff, heq⟩
  · rw [heq]
    rw [hon] at hhere
    exact {
      frame := congrArg (fun u => (u.setReg vf 1#8).setFb (t.fb.put px py false)) h.frame
      kept := fun k hk => by rw [State.reg_setFb, State.reg_setReg, if_neg hk, h.kept k hk]
      pixel := by rw [← hhere] at hpixel; exact hpixel
      set := fun _ => t.reg_setReg_same vf 1#8
      clear := fun hc => absurd ⟨px, py, hhere.symm, hq⟩ hc }
  · rw [heq]
    rw [hoff] at hhere
    have hcollides : Collides q s ↔ Collides p s := by
      refine exists_congr fun px' => exists_congr fun py' => and_congr_right fun hon => ?_
      rw [hother px' py']
      rintro ⟨rfl, rfl⟩
      exact absurd (hhere.trans hon) (by decide)
    exact {
      frame := congrArg (fun u => u.setFb (t.fb.put px py true)) h.frame
      kept := h.kept
      pixel := by rw [← hhere] at hpixel; exact hpixel
      set := fun hc => h.set (hcollides.1 hc)
      clear := fun hc => h.clear (mt hcollides.2 hc) }

end Drawn

end Sys2Proof.Machine
end

section
/-! `DXYN` as a loop (43_display.md R231, R233): what a column, a row and the whole instruction do to a state
in which the pixels before them have been drawn. -/

namespace Sys2Proof.Machine

theorem forEach_range_done {f : Nat → State → Attempt} {P : Nat → State → Prop} {m : Nat} {s : State}
    (hstart : P 0 s) (hround : ∀ k < m, ∀ t, P k t → ∃ u, f k t = .done u ∧ P (k + 1) u) :
    ∃ t, forEach f (List.range m) s = .done t ∧ P m t := by
  induction m with
  | zero => exact ⟨s, rfl, hstart⟩
  | succ m ih =>
    obtain ⟨t, hloop, ht⟩ := ih fun k hk => hround k (by omega)
    obtain ⟨u, hlast, hu⟩ := hround m (by omega) t ht
    exact ⟨u, by rw [forEach_range_succ, hloop, Attempt.done_andThen, hlast], hu⟩

section
variable {s t : State} {x y : Reg} {n : Nibble} {r : Nat} {p : Fin 64 → Fin 32 → Bool}

/-! ## A column -/

theorem drawColumn_done {c : Nat} (hr : r < n.toNat) (hc : c < 8) (ht : Drawn (coversBefore s x y n r c) s t)
    (hin : BitInside s x y r c) :
    ∃ u, drawColumn (spriteColumn (s.reg x)) (spriteRow (s.reg y) + r) (s.spriteByte r) c t = .done u ∧
      Drawn (coversBefore s x y n r (c + 1)) s u := by
  have hcov := spriteCovers_offset (s := s) x y hr hc
  cases hbit : spriteBit (s.spriteByte r) c with
  | false =>
    rw [hbit] at hcov
    exact ⟨t, by rw [drawColumn, hbit]; rfl, by rwa [coversBefore_succ_of_clear hcov]⟩
  | true =>
    rw [hbit] at hcov
    obtain ⟨hx, hy⟩ := hin hbit
    refine ⟨_, by rw [drawColumn, if_pos hbit, drawPixel_inside hx hy],
      ht.flip (coversBefore_self hx hy) ((coversBefore_succ_self hx hy).trans hcov) fun px py hne => ?_⟩
    exact coversBefore_succ_other (by simpa [Fin.ext_iff] using hne)

theorem drawColumn_raised {ox py c : Nat} {row : Byte} (hbit : spriteBit row c = true)
    (hout : 64 ≤ ox + c ∨ 32 ≤ py) (t : State) : drawColumn ox py row c t =
      .raised (takeFault .pixelOutOfRange (t.pc - 2#16) (pixelInfo (ox + c) py) t) := by
  rw [drawColumn, if_pos hbit, drawPixel_outside hout, raise_eq]

/-! ## A row -/

theorem drawRow_readable (ht : Drawn p s t) (h : s.index.toNat + r < 4096) (ox oy : Nat) :
    drawRow ox oy r t = forEach (drawColumn ox (oy + r) (s.spriteByte r)) (List.range 8) t := by
  rw [drawRow, ht.indexed, memRead_inside (s.indexed_inside h), s.indexed_toNat (by omega), ht.mem,
    State.spriteByte]

theorem drawRow_unreadable (ht : Drawn p s t) (h : 4096 ≤ (s.indexed r).toNat) (ox oy : Nat) :
    drawRow ox oy r t = .raised (takeFault .readOutOfRange (s.pc - 2#16) (s.indexed r) t) := by
  rw [drawRow, ht.indexed, memRead_outside h, raise_eq, ht.pc]

/-- The first columns of a row, when none of them has a set bit outside the grid. -/
theorem drawColumns_done {m : Nat} (hr : r < n.toNat) (hm : m ≤ 8)
    (ht : Drawn (coversBefore s x y n r 0) s t) (hin : ∀ c < m, BitInside s x y r c) :
    ∃ u, forEach (drawColumn (spriteColumn (s.reg x)) (spriteRow (s.reg y) + r) (s.spriteByte r))
        (List.range m) t = .done u ∧ Drawn (coversBefore s x y n r m) s u :=
  forEach_range_done (P := fun c => Drawn (coversBefore s x y n r c) s) ht
    fun c hc _ hu => drawColumn_done hr (by omega) hu (hin c hc)

theorem drawRow_done (hr : r < n.toNat) (hfits : spriteRowFits s x y n r)
    (ht : Drawn (coversBefore s x y n r 0) s t) :
    ∃ u, drawRow (spriteColumn (s.reg x)) (spriteRow (s.reg y)) r t = .done u ∧
      Drawn (coversBefore s x y n (r + 1) 0) s u := by
  obtain ⟨hread, hin⟩ := (spriteRowFits_iff x y hr).1 hfits
  rw [drawRow_readable ht hread, ← coversBefore_rowEnd]
  exact drawColumns_done hr le_rfl ht hin

/-- A row that can be read ends at its first set bit outside the grid. -/
theorem drawRow_outside {c : Nat} (hr : r < n.toNat) (hread : s.index.toNat + r < 4096) (hc : c < 8)
    (hbit : spriteBit (s.spriteByte r) c = true)
    (hout : 64 ≤ spriteColumn (s.reg x) + c ∨ 32 ≤ spriteRow (s.reg y) + r)
    (hin : ∀ c' < c, BitInside s x y r c') (ht : Drawn (coversBefore s x y n r 0) s t) :
    ∃ u, drawRow (spriteColumn (s.reg x)) (spriteRow (s.reg y)) r t =
        .raised (takeFault .pixelOutOfRange (s.pc - 2#16)
          (pixelInfo (spriteColumn (s.reg x) + c) (spriteRow (s.reg y) + r)) u) ∧
      Drawn (drawnBeforeFault s x y n r) s u := by
  obtain ⟨u, hloop, hu⟩ := drawColumns_done hr hc.le ht hin
  rw [coversBefore_of_outside hread hout] at hu
  refine ⟨u, ?_, hu⟩
  rw [drawRow_readable ht hread, forEach_range_raised hc hloop (drawColumn_raised hbit hout u), hu.pc]

/-! ## The instruction -/

theorem drawRows_done {m : Nat} (hm : m ≤ n.toNat) (hfits : ∀ r < m, spriteRowFits s x y n r) :
    ∃ t, forEach (drawRow (spriteColumn (s.reg x)) (spriteRow (s.reg y))) (List.range m)
        (s.setReg vf 0#8) = .done t ∧ Drawn (coversBefore s x y n m 0) s t :=
  forEach_range_done (P := fun r => Drawn (coversBefore s x y n r 0) s) (.start coversBefore_start)
    fun r hr _ ht => drawRow_done (by omega) (hfits r hr) ht

theorem exec_drw_eq (s : State) (x y : Reg) (n : Nibble) : exec (.drw x y n) s =
    .next (forEach (drawRow (spriteColumn (s.reg x)) (spriteRow (s.reg y))) (List.range n.toNat)
      (s.setReg vf 0#8)).state := by
  rw [exec, execDrw, Attempt.outcome_eq]

/-- R231: a sprite that fits is turned over as a whole. -/
theorem exec_drw_done (hfits : spriteFits s x y n) :
    ∃ t, exec (.drw x y n) s = .next t ∧ Drawn (fun px py => spriteCovers s x y n px py) s t := by
  obtain ⟨t, hloop, ht⟩ := drawRows_done le_rfl hfits
  rw [funext₂ coversBefore_end] at ht
  exact ⟨t, by rw [exec_drw_eq, hloop, Attempt.state_done], ht⟩

/-- The first row that does not fit ends the draw as that row ends. -/
theorem exec_drw_raised (hr : r < n.toNat) (hfits : ∀ r' < r, spriteRowFits s x y n r')
    {c : FaultCause} {info : Addr}
    (hrow : ∀ t, Drawn (coversBefore s x y n r 0) s t →
      ∃ u, drawRow (spriteColumn (s.reg x)) (spriteRow (s.reg y)) r t =
          .raised (takeFault c (s.pc - 2#16) info u) ∧ Drawn (drawnBeforeFault s x y n r) s u) :
    ∃ u, exec (.drw x y n) s = .next (takeFault c (s.pc - 2#16) info u) ∧
      Drawn (drawnBeforeFault s x y n r) s u := by
  obtain ⟨t, hloop, ht⟩ := drawRows_done hr.le hfits
  obtain ⟨u, hround, hu⟩ := hrow t ht
  exact ⟨u, by rw [exec_drw_eq, forEach_range_raised hr hloop hround, Attempt.state_raised], hu⟩

end

end Sys2Proof.Machine
end

section
/-! Where `DXYN` faults (43_display.md R233, 60_exceptions.md R304, R311, R314). -/

namespace Sys2Proof.Machine

/-- Column `px` is the first at which row `r` of the sprite has a set bit outside the grid. -/
structure FirstBitOutside (s : State) (x y : Reg) (n : Nibble) (r px : Nat) : Prop where
  covers : spriteCovers s x y n px (spriteRow (s.reg y) + r) = true
  outside : 64 ≤ px ∨ 32 ≤ spriteRow (s.reg y) + r
  inside_before : ∀ px', px' < px → spriteCovers s x y n px' (spriteRow (s.reg y) + r) = true →
    px' < 64 ∧ spriteRow (s.reg y) + r < 32

section
variable {s : State} {x y : Reg} {n : Nibble} {r : Nat}

theorem FirstBitOutside.unique {px px' : Nat} (h : FirstBitOutside s x y n r px)
    (h' : FirstBitOutside s x y n r px') : px = px' := by
  rcases Nat.lt_trichotomy px px' with hlt | heq | hgt
  · have := h'.inside_before px hlt h.covers
    have := h.outside
    omega
  · exact heq
  · have := h.inside_before px' hgt h'.covers
    have := h'.outside
    omega

theorem exists_firstBitOutside (hread : s.index.toNat + r < 4096) (hbad : ¬ spriteRowFits s x y n r) :
    ∃ px, FirstBitOutside s x y n r px := by
  have hex : ∃ px, spriteCovers s x y n px (spriteRow (s.reg y) + r) = true ∧
      ¬ (px < 64 ∧ spriteRow (s.reg y) + r < 32) := by
    by_contra hall
    exact hbad ⟨hread, fun px hpx => by_contra fun hout => hall ⟨px, hpx, hout⟩⟩
  obtain ⟨hcov, hout⟩ := Nat.find_spec hex
  exact ⟨Nat.find hex, hcov, by omega,
    fun px hlt hpx => by_contra fun h => Nat.find_min hex hlt ⟨hpx, h⟩⟩

theorem exec_drw_unreadable (hr : r < n.toNat) (hfits : ∀ r' < r, spriteRowFits s x y n r')
    (hout : 4096 ≤ s.index.toNat + r) :
    ∃ u, exec (.drw x y n) s = .next (takeFault .readOutOfRange (s.pc - 2#16) (s.indexed r) u) ∧
      Drawn (drawnBeforeFault s x y n r) s u := by
  -- The row before was readable, so the address of this one has not wrapped.
  have hnowrap : s.index.toNat + r < 65536 := by
    rcases Nat.eq_zero_or_pos r with rfl | hpos
    · exact s.index.isLt
    · have := (hfits (r - 1) (by omega)).1
      omega
  have haddr : 4096 ≤ (s.indexed r).toNat := by rwa [s.indexed_toNat hnowrap]
  refine exec_drw_raised hr hfits fun t ht => ⟨t, drawRow_unreadable ht haddr _ _, ?_⟩
  rwa [coversBefore_of_unreadable hout] at ht

theorem exec_drw_outside (hr : r < n.toNat) (hfits : ∀ r' < r, spriteRowFits s x y n r')
    (hread : s.index.toNat + r < 4096) {px : Nat} (hpx : FirstBitOutside s x y n r px) :
    ∃ u, exec (.drw x y n) s = .next (takeFault .pixelOutOfRange (s.pc - 2#16)
        (pixelInfo px (spriteRow (s.reg y) + r)) u) ∧
      Drawn (drawnBeforeFault s x y n r) s u := by
  obtain ⟨hle, hlt, -, -⟩ := spriteCovers_bounds hpx.covers
  obtain ⟨c, rfl⟩ := Nat.exists_eq_add_of_le hle
  have hc : c < 8 := by omega
  have hbit {c' : Nat} (hc' : c' < 8) := spriteCovers_offset (s := s) x y hr hc'
  refine exec_drw_raised hr hfits fun t ht =>
    drawRow_outside hr hread hc ((hbit hc).symm.trans hpx.covers) hpx.outside (fun c' hc' h => ?_) ht
  exact hpx.inside_before _ (by omega) ((hbit (by omega)).trans h)

/-- The fault of the first row that does not fit, and what has been drawn by then. -/
theorem exec_drw_fault (hr : r < n.toNat) (hfits : ∀ r' < r, spriteRowFits s x y n r')
    (hbad : ¬ spriteRowFits s x y n r) :
    ∃ c info u, exec (.drw x y n) s = .next (takeFault c (s.pc - 2#16) info u) ∧
      Drawn (drawnBeforeFault s x y n r) s u ∧
      (4096 ≤ s.index.toNat + r → c = .readOutOfRange ∧ info = s.indexed r) ∧
      (s.index.toNat + r < 4096 → ∀ px, FirstBitOutside s x y n r px →
        c = .pixelOutOfRange ∧ info = pixelInfo px (spriteRow (s.reg y) + r)) := by
  rcases Nat.lt_or_ge (s.index.toNat + r) 4096 with hread | hout
  · obtain ⟨px, hpx⟩ := exists_firstBitOutside hread hbad
    obtain ⟨u, hexec, hu⟩ := exec_drw_outside hr hfits hread hpx
    exact ⟨_, _, u, hexec, hu, fun h => absurd hread h.not_gt,
      fun _ px' hpx' => ⟨rfl, by rw [hpx.unique hpx']⟩⟩
  · obtain ⟨u, hexec, hu⟩ := exec_drw_unreadable hr hfits hout
    exact ⟨_, _, u, hexec, hu, fun _ => ⟨rfl, rfl⟩, fun h => absurd h hout.not_gt⟩

end

end Sys2Proof.Machine
end

section
/-! The framebuffer (43_display.md): the obligations. -/

namespace Sys2Proof.Machine

/-- Settles O42: the loop run to its end. -/
theorem drawXorsTheSprite : Obligations.DrawXorsTheSprite := by
  refine fun s x y n => ⟨?_, fun hfits => ?_⟩
  · rw [encode, packFXYN_eq_ofNat]
    congr 1
    simp only [BitVec.toNat_ofNat]
    omega
  · obtain ⟨t, hexec, ht⟩ := exec_drw_done hfits
    exact ⟨t, hexec, ht.pixel, ht.set, ht.clear_of_forall, ht.onlyRegsChange⟩

/-- Settles O43: the loop ended by the row's fault. -/
theorem drawFaultsAtTheFirstBadRow : Obligations.DrawFaultsAtTheFirstBadRow := by
  intro s x y n r hr hfits hbad
  obtain ⟨c, info, u, hexec, hu, hread, hpixel⟩ := exec_drw_fault hr hfits hbad
  refine ⟨_, hexec, congrArg (takeFault _ _ _) hu.frame, hu.kept, fun h => ?_,
    fun h px hcov hout hin => ?_, hu.pixel, hu.set, hu.clear_of_forall⟩
  · obtain ⟨rfl, rfl⟩ := hread h
    rfl
  · obtain ⟨rfl, rfl⟩ := hpixel h px ⟨hcov, hout, hin⟩
    rfl

/-! ## The second draw -/

section
variable {s t : State} {p : Fin 64 → Fin 32 → Bool} {x y : Reg} {n : Nibble}

/-- R114: a second draw from column VF starts at column 0 or 1, and 8 columns from there are on the grid. -/
theorem Drawn.spriteColumn_add_lt (ht : Drawn p s t) {c : Nat} (hc : c < 8)
    (h : spriteColumn (s.reg x) + c < 64) : spriteColumn (t.reg x) + c < 64 := by
  by_cases hx : x = vf
  · subst hx
    have hle : spriteColumn (t.reg vf) ≤ 1 := (Nat.mod_le _ _).trans ht.vf_le_one
    omega
  · rwa [ht.kept x hx]

/-- R114: a second draw from row VF starts at row 0 or 1, and 15 rows from there are on the grid. -/
theorem Drawn.spriteRow_add_lt (ht : Drawn p s t) {r : Nat} (hr : r < 15)
    (h : spriteRow (s.reg y) + r < 32) : spriteRow (t.reg y) + r < 32 := by
  by_cases hy : y = vf
  · subst hy
    have hle : spriteRow (t.reg vf) ≤ 1 := (Nat.mod_le _ _).trans ht.vf_le_one
    omega
  · rwa [ht.kept y hy]

/-- A sprite that fits does so again after a draw. -/
theorem Drawn.keeps_spriteFits (ht : Drawn p s t) (hfits : spriteFits s x y n) : spriteFits t x y n := by
  intro r hr
  obtain ⟨hread, hin⟩ := (spriteRowFits_iff x y hr).1 (hfits r hr)
  rw [spriteRowFits_iff x y hr, ht.index]
  refine ⟨hread, fun c hc hbit => ?_⟩
  rw [ht.spriteByte] at hbit
  obtain ⟨hx, hy⟩ := hin c hc hbit
  exact ⟨ht.spriteColumn_add_lt hc hx, ht.spriteRow_add_lt (by omega) hy⟩

theorem Drawn.spriteCovers_eq (ht : Drawn p s t) (hx : x ≠ vf) (hy : y ≠ vf) (px py : Nat) :
    spriteCovers t x y n px py = spriteCovers s x y n px py :=
  spriteCovers_congr (ht.kept x hx) (ht.kept y hy) ht.index ht.mem px py

end

/-- Settles O44: the second draw turns the same pixels over, and finds on those that the first found off. -/
theorem drawingTwiceRestoresTheScreen : Obligations.DrawingTwiceRestoresTheScreen := by
  intro s x y n hx hy hfits
  obtain ⟨t, hfirst, ht⟩ := exec_drw_done hfits
  obtain ⟨u, hsecond, hu⟩ := exec_drw_done (ht.keeps_spriteFits hfits)
  refine ⟨t, u, hfirst, hsecond, Framebuffer.ext_get fun px py => ?_, hu.fault.trans ht.fault,
    hu.vf_eq_one_iff.trans (exists_congr fun px => exists_congr fun py => ?_)⟩
  · rw [hu.pixel, ht.pixel, ht.spriteCovers_eq hx hy, Bool.xor_assoc, Bool.xor_self, Bool.xor_false]
  · simp only [ht.pixel, ht.spriteCovers_eq hx hy]
    cases spriteCovers s x y n px py <;> simp

/-- Settles O56: a sprite that fits does so again from the new VF, so both draws run to their end. -/
theorem secondDrawFromVfMovesToTheNewVf : Obligations.SecondDrawFromVfMovesToTheNewVf := by
  intro s x y n _ hfits
  obtain ⟨t, hfirst, ht⟩ := exec_drw_done hfits
  obtain ⟨u, hsecond, hu⟩ := exec_drw_done (ht.keeps_spriteFits hfits)
  refine ⟨t, u, hfirst, hsecond, ht.vf_le_one, hu.fault.trans ht.fault, fun px py => ?_, ?_⟩
  · rw [hu.pixel, ht.pixel, Bool.xor_assoc]
  · split
    next hcollides => exact hu.set hcollides
    next hclear => exact hu.clear hclear

/-- Every pixel on, and `I` at the glyph of the digit 0, whose first row is 0xF0. -/
def allOnAtGlyph : State :=
  { State.reset with index := 0x050#16, fb := Vector.replicate 32 (Vector.replicate 64 true) }

/-- A one-row sprite at the upper left corner fits, whatever its bits. -/
theorem allOnAtGlyph_fits : spriteFits allOnAtGlyph 0 1 1#4 := by
  intro r hr
  have hr0 : r < 1 := hr
  refine (spriteRowFits_iff 0 1 hr).2 ⟨?_, fun c hc _ => ?_⟩
  · show 0x050 + r < 4096
    omega
  · show 0 + c < 64 ∧ 0 + r < 32
    omega

/-- Refutes O45: with every pixel on, the first draw turns the covered pixels off and the second finds none
on. -/
theorem not_secondDrawAlwaysCollides : ¬ Obligations.SecondDrawAlwaysCollides := by
  intro h
  have hcovers : ∃ (px : Fin 64) (py : Fin 32), spriteCovers allOnAtGlyph 0 1 1#4 px py = true :=
    ⟨0, 0, by decide⟩
  obtain ⟨t, u, hfirst, hsecond, hvf⟩ :=
    h allOnAtGlyph 0 1 1#4 (by decide) (by decide) allOnAtGlyph_fits hcovers
  rw [eq_execState hsecond, eq_execState hfirst] at hvf
  exact absurd hvf (by decide)

/-- Settles O41: the framebuffer alone is replaced. -/
theorem clearScreenTurnsEveryPixelOff : Obligations.ClearScreenTurnsEveryPixelOff :=
  ⟨rfl, fun s => ⟨s.setFb Framebuffer.off, rfl, rfl, Framebuffer.get_off⟩⟩

end Sys2Proof.Machine
end

section
/-! The keypad and timer instructions (44_input_timers.md R250 to R255): the obligations. -/

namespace Sys2Proof.Machine

/-! ## The key wait -/

theorem State.firstKeyDown_eq_some_iff {s : State} {k : Reg} :
    s.firstKeyDown = some k ↔ s.keyDown k = true ∧ ∀ j < k, s.keyDown j = false := by
  rw [State.firstKeyDown, keyIndices, ← Fin.find?_eq_find?_finRange, Fin.find?_eq_some_iff]

theorem State.firstKeyDown_eq_none_iff {s : State} :
    s.firstKeyDown = none ↔ ∀ k, s.keyDown k = false := by
  rw [State.firstKeyDown, keyIndices, ← Fin.find?_eq_find?_finRange, Fin.find?_eq_none_iff]

theorem exec_ldVxK_of_some {s : State} {k : Reg} (h : s.firstKeyDown = some k) (x : Reg) :
    exec (.ldVxK x) s = .next (s.setReg x (BitVec.ofNat 8 k.val)) := by
  rw [exec_eq_next, execState_ldVxK_of_some h]

theorem exec_ldVxK_of_none {s : State} (h : s.firstKeyDown = none) (x : Reg) :
    exec (.ldVxK x) s = .next { s with pc := s.pc - 2#16 } := by
  rw [exec_eq_next, execState_ldVxK_of_none h, State.setPc]

/-- A key's number fits in a byte. -/
theorem toNat_ofNat_key (k : Reg) : (BitVec.ofNat 8 k.val).toNat = k.val :=
  Nat.mod_eq_of_lt (k.isLt.trans (by decide))

/-- Settles O47: the two answers of the scan for the lowest key that is down. -/
theorem awaitKeyTakesTheLowestOrWaits : Obligations.AwaitKeyTakesTheLowestOrWaits := by
  refine fun s x => ⟨packFX_eq_ofNat 0xF#4 x 0x0A#8, fun k hk hlow => ?_, fun hnone => ?_⟩
  · have hfirst : s.firstKeyDown = some k := State.firstKeyDown_eq_some_iff.2 ⟨hk, hlow⟩
    refine ⟨_, exec_ldVxK_of_some hfirst x, ?_, onlyRegsChange_setReg s x _⟩
    rw [State.reg_setReg_same, toNat_ofNat_key]
  · exact exec_ldVxK_of_none (State.firstKeyDown_eq_none_iff.2 hnone) x

/-! ## The key skips -/

theorem zextByte_eq_ofNat (b : Byte) : zextByte b = BitVec.ofNat 16 b.toNat :=
  (BitVec.ofNat_toNat 16 b).symm

theorem skipIf_eq (c : Bool) (s : State) :
    skipIf c s = { s with pc := if c then s.pc + 2#16 else s.pc } := by
  cases c <;> rfl

theorem skipOnKey_of_lt {s : State} {x : Reg} (h : (s.reg x).toNat < 16) (down : Bool) :
    skipOnKey down x s =
      .done { s with pc := if s.keys[(s.reg x).toNat] = down then s.pc + 2#16 else s.pc } := by
  simp only [skipOnKey, keyIndex_of_lt h, skipIf_eq, beq_iff_eq, State.keyDown, Fin.getElem_fin]

theorem skipOnKey_of_ge {s : State} {x : Reg} (h : 16 ≤ (s.reg x).toNat) (down : Bool) :
    skipOnKey down x s =
      .raised (takeFault .keyOutOfRange (s.pc - 2#16) (BitVec.ofNat 16 (s.reg x).toNat) s) := by
  simp only [skipOnKey, keyIndex_of_ge h, raise_eq, zextByte_eq_ofNat]

/-- Settles O46: both branches of the shared skip; `EXA1` is its case of a key that is up. -/
theorem keySkipsReadTheKeypadOrFault : Obligations.KeySkipsReadTheKeypadOrFault := by
  refine fun s x => ⟨packFX_eq_ofNat 0xE#4 x 0x9E#8, packFX_eq_ofNat 0xE#4 x 0xA1#8,
    fun h => ⟨?_, ?_⟩, fun h => ?_⟩
  · rw [exec, execSkp, skipOnKey_of_lt h, Attempt.outcome_eq, Attempt.state_done]
  · rw [exec, execSknp, skipOnKey_of_lt h, Attempt.outcome_eq, Attempt.state_done]
    simp only [← Bool.not_eq_true, ite_not]
  · refine ⟨takeFault .keyOutOfRange (s.pc - 2#16) (BitVec.ofNat 16 (s.reg x).toNat) s, ?_, ?_, rfl, rfl⟩
    · rw [exec, execSkp, skipOnKey_of_ge h, Attempt.outcome_eq, Attempt.state_raised]
    · rw [exec, execSknp, skipOnKey_of_ge h, Attempt.outcome_eq, Attempt.state_raised]

/-! ## The timers -/

/-- Settles O48: each instruction writes one register or one timer. -/
theorem timerInstructions : Obligations.TimerInstructions := fun s x =>
  ⟨packFX_eq_ofNat 0xF#4 x 0x07#8, packFX_eq_ofNat 0xF#4 x 0x15#8, packFX_eq_ofNat 0xF#4 x 0x18#8,
    ⟨s.setReg x s.dt, rfl, s.reg_setReg_same x s.dt, onlyRegsChange_setReg s x _⟩, rfl, rfl⟩

end Sys2Proof.Machine
end

section
/-! The operations of the host (60_exceptions.md R313, R319 to R324): what each leaves and returns. -/

namespace Sys2Proof.Machine

section
variable {s t : State}

/-! ## `load_program` and `step` -/

theorem loadProgram_fault {image : List Byte} (h : s.loadProgram image = .ok t) : t.fault = s.fault := by
  unfold State.loadProgram at h
  split at h
  · obtain rfl := LoadResult.ok.inj h
    rfl
  · cases h

/-- A load that is rejected changes nothing. -/
theorem hostCall_loadProgram_state (image : List Byte) (s : State) :
    (hostCall (.loadProgram image) s).2 = s ∨
      s.loadProgram image = .ok (hostCall (.loadProgram image) s).2 := by
  rw [hostCall]
  cases s.loadProgram image with
  | ok t => exact .inr rfl
  | tooLarge info => exact .inl rfl

theorem step_of_halted (h : s.fault.halted = true) : step s = .fault (latchedFault s) := by
  rw [step, if_pos h]

theorem hostCall_step_of_next (h : step s = .next t) : hostCall .step s = (stepReply t, t) := by
  rw [hostCall, h]

theorem hostCall_step_of_halted (h : s.fault.halted = true) :
    hostCall .step s = (.stepFault s.fault.cause s.fault.faultPc s.fault.info, s) := by
  rw [hostCall, step_of_halted h, latchedFault]

theorem stepReply_of_halted (h : s.fault.halted = true) :
    stepReply s = .stepFault s.fault.cause s.fault.faultPc s.fault.info := by
  rw [stepReply, if_pos h]

/-! ## The invariant over the operations of the host -/

theorem resetOp_inv (hs : s.Inv) : s.resetOp.Inv :=
  ⟨resetOp_keeps_wf hs.1, .inl ⟨rfl, rfl⟩⟩

theorem loadProgram_inv (hs : s.Inv) {image : List Byte} (h : s.loadProgram image = .ok t) : t.Inv := by
  obtain ⟨hmem, hfault⟩ := hs
  exact ⟨loadProgram_keeps_wf hmem h, (loadProgram_fault h).symm ▸ hfault⟩

theorem hostCall_step_inv (hs : s.Inv) : (hostCall .step s).2.Inv := by
  cases hh : s.fault.halted with
  | true =>
    rw [hostCall_step_of_halted hh]
    exact hs
  | false =>
    obtain ⟨t, h⟩ := runningCoreAlwaysSteps s hh
    rw [hostCall_step_of_next h]
    exact stepKeepsTheInvariant s t hs h

theorem hostCall_inv (hs : s.Inv) (c : HostCall) : (hostCall c s).2.Inv := by
  cases c with
  | reset => exact resetOp_inv hs
  | loadProgram image =>
    rcases hostCall_loadProgram_state image s with h | h
    · rw [h]; exact hs
    · exact loadProgram_inv hs h
  | step => exact hostCall_step_inv hs
  | writeKeypad keys => exact hs.of_same (State.writeKeypad_mem ..) (State.writeKeypad_fault ..)
  | readFramebuffer | readSoundActive | readFault => exact hs

end

/-- Settles O10, by induction on the sequence of operations. -/
theorem hostRunsKeepTheInvariant : Obligations.HostRunsKeepTheInvariant := by
  intro cs
  induction cs with
  | nil => exact fun s hs => hs
  | cons c cs ih => exact fun s hs => ih _ (hostCall_inv hs c)

/-- Settles O8: of the operations but `reset` only a load writes anything, and it writes memory alone. -/
theorem haltedCoreLeavesOnlyByReset : Obligations.HaltedCoreLeavesOnlyByReset := by
  refine fun s hh => ⟨step_of_halted hh, hostCall_step_of_halted hh, fun c hc => ?_, rfl⟩
  cases c with
  | reset => exact absurd rfl hc
  | loadProgram image =>
    rcases hostCall_loadProgram_state image s with h | h
    · rw [h]
    · exact loadProgram_fault h
  | step => rw [hostCall_step_of_halted hh]
  | writeKeypad keys => exact s.writeKeypad_fault keys
  | readFramebuffer | readSoundActive | readFault => rfl

theorem State.soundActive_eq_decide (s : State) : s.soundActive = decide (0 < s.st.toNat) := by
  rw [Bool.eq_iff_iff, State.soundActive, bne_iff_ne, decide_eq_true_eq, Nat.pos_iff_ne_zero,
    ← BitVec.toNat_ne_iff_ne]
  rfl

/-- Settles O55: each port's reply and state as `hostCall` gives them, with `ST` compared as a number. -/
theorem hostPortsReadAndWriteAsNamed : Obligations.HostPortsReadAndWriteAsNamed := by
  refine fun s keys => ⟨rfl, fun _ => rfl, rfl, ?_, rfl⟩
  rw [hostCall, State.soundActive_eq_decide]

end Sys2Proof.Machine
end

section
/-! The faults of the instructions (60_exceptions.md R301, R304, R306, R311): their conditions, and what an
instruction has written when it raises one. -/

namespace Sys2Proof.Machine

/-- R301: the faults an instruction can raise from `s`, each with its condition, cause and info. -/
inductive ListedFault (s : State) : Instr → FaultCause → Addr → Prop
  | call (nnn : Imm12) (hsp : s.sp.val = 16) : ListedFault s (.call nnn) .stackOverflow 16#16
  | ret (hsp : s.sp.val = 0) : ListedFault s .ret .stackUnderflow 0#16
  | ldB (x : Reg) {k : Nat} (hk : k < 3) (hout : 4096 ≤ (s.indexed k).toNat) :
      ListedFault s (.ldB x) .writeOutOfRange (s.indexed k)
  | ldMemVx {x : Reg} {k : Nat} (hk : k ≤ x.val) (hout : 4096 ≤ (s.indexed k).toNat) :
      ListedFault s (.ldMemVx x) .writeOutOfRange (s.indexed k)
  | ldVxMem {x : Reg} {k : Nat} (hk : k ≤ x.val) (hout : 4096 ≤ (s.indexed k).toNat) :
      ListedFault s (.ldVxMem x) .readOutOfRange (s.indexed k)
  | drwRow (x y : Reg) {n : Nibble} {k : Nat} (hk : k < n.toNat) (hout : 4096 ≤ (s.indexed k).toNat) :
      ListedFault s (.drw x y n) .readOutOfRange (s.indexed k)
  | drwPixel {x y : Reg} {n : Nibble} {px py : Nat} (hcov : spriteCovers s x y n px py = true)
      (hout : 64 ≤ px ∨ 32 ≤ py) : ListedFault s (.drw x y n) .pixelOutOfRange (pixelInfo px py)
  | skp {x : Reg} (hkey : 15 < (s.reg x).toNat) :
      ListedFault s (.skp x) .keyOutOfRange (zextByte (s.reg x))
  | sknp {x : Reg} (hkey : 15 < (s.reg x).toNat) :
      ListedFault s (.sknp x) .keyOutOfRange (zextByte (s.reg x))

/-- `t` is `s` but for registers, pixels and bytes of memory, which an instruction may have written when it
raises a fault (R311). -/
structure PartlyWritten (s t : State) : Prop where
  frame : t = { s with v := t.v, fb := t.fb, mem := t.mem }

/-- `t` is what a listed fault of `i` leaves of `s`. -/
def RaisedAsListed (i : Instr) (s t : State) : Prop :=
  ∃ c info u, ListedFault s i c info ∧ PartlyWritten s u ∧ t = takeFault c (s.pc - 2#16) info u

/-- `i` answers a state in which no fault has been raised, or a listed one. -/
def FaultsOnlyAsListed (i : Instr) (s : State) : Prop :=
  ∃ t, exec i s = .next t ∧ (t.fault = s.fault ∨ RaisedAsListed i s t)

section
variable {s : State}

theorem FaultsOnlyAsListed.raised {i : Instr} {c : FaultCause} {info : Addr} {u : State}
    (hexec : exec i s = .next (takeFault c (s.pc - 2#16) info u)) (hfault : ListedFault s i c info)
    (hu : PartlyWritten s u) : FaultsOnlyAsListed i s :=
  ⟨_, hexec, .inr ⟨c, info, u, hfault, hu, rfl⟩⟩

/-! ## What has been written before a fault -/

theorem PartlyWritten.pc {t : State} (ht : PartlyWritten s t) : t.pc = s.pc := by
  rw [ht.frame]

theorem PartlyWritten.fault {t : State} (ht : PartlyWritten s t) : t.fault = s.fault := by
  rw [ht.frame]

theorem Stored.partlyWritten {w : Nat → Byte} {n : Nat} {t : State} (ht : Stored w n s t) :
    PartlyWritten s t :=
  ⟨by rw [ht.frame]⟩

theorem Loaded.partlyWritten {n : Nat} {t : State} (ht : Loaded n s t) : PartlyWritten s t :=
  ⟨by rw [ht.frame]⟩

theorem Drawn.partlyWritten {p : Fin 64 → Fin 32 → Bool} {t : State} (ht : Drawn p s t) :
    PartlyWritten s t :=
  ⟨by rw [ht.frame]⟩

/-! ## The stack and the keypad -/

theorem call_faultsOnlyAsListed (s : State) (nnn : Imm12) : FaultsOnlyAsListed (.call nnn) s := by
  rcases Nat.lt_or_ge s.sp.val 16 with h | h
  · exact ⟨_, exec_call_of_lt h nnn, .inl rfl⟩
  · have hfull : s.sp.val = 16 := by omega
    exact .raised (exec_call_of_full hfull nnn) (.call nnn hfull) ⟨rfl⟩

theorem ret_faultsOnlyAsListed (s : State) : FaultsOnlyAsListed .ret s := by
  rcases Nat.eq_zero_or_pos s.sp.val with h | h
  · exact .raised (exec_ret_of_empty h) (.ret h) ⟨rfl⟩
  · exact ⟨_, exec_ret_of_pos h, .inl rfl⟩

theorem skipOnKey_faultsOnlyAsListed {i : Instr} {x : Reg} {down : Bool}
    (hexec : exec i s = .next (skipOnKey down x s).state)
    (hfault : 15 < (s.reg x).toNat → ListedFault s i .keyOutOfRange (zextByte (s.reg x))) :
    FaultsOnlyAsListed i s := by
  rcases Nat.lt_or_ge (s.reg x).toNat 16 with h | h
  · rw [skipOnKey_of_lt h] at hexec
    exact ⟨_, hexec, .inl rfl⟩
  · rw [skipOnKey_of_ge h, ← zextByte_eq_ofNat] at hexec
    exact .raised hexec (hfault h) ⟨rfl⟩

/-! ## Transfers -/

/-- A transfer ends at its last round, or at an offset whose address lies outside memory. -/
theorem TransferLoop.faultsOnlyAsListed {f : Nat → State → Attempt} {c : FaultCause} {n : Nat}
    {P : Nat → State → Prop} {i : Instr} (hf : TransferLoop f c n s P)
    (hi : exec i s = .next (forEach f (List.range n) s).state) (hn : 0 < n)
    (hP : ∀ k t, P k t → PartlyWritten s t)
    (hfault : ∀ k < n, 4096 ≤ (s.indexed k).toNat → ListedFault s i c (s.indexed k)) :
    FaultsOnlyAsListed i s := by
  rcases Nat.lt_or_ge 4096 (s.index.toNat + n) with h | h
  · obtain ⟨t, hexec, ht⟩ := hf.exec_raised hi h hn
    rw [(hP _ t ht).pc, ← s.indexed_firstOutside] at hexec
    exact .raised hexec (hfault _ (by omega) (s.indexed_firstOutside ▸ s.firstOutside_ge)) (hP _ t ht)
  · obtain ⟨t, hexec, ht⟩ := hf.exec_done hi h
    exact ⟨t, hexec, .inl (hP _ t ht).fault⟩

/-! ## Draws -/

/-- A row that cannot be read, when the rows before it can, has not wrapped. -/
theorem State.indexed_outside_of_first (s : State) {r : Nat} (hout : 4096 ≤ s.index.toNat + r)
    (hbefore : ∀ r' < r, s.index.toNat + r' < 4096) : 4096 ≤ (s.indexed r).toNat := by
  have hnowrap : s.index.toNat + r < 65536 := by
    rcases Nat.eq_zero_or_pos r with rfl | hpos
    · exact s.index.isLt
    · have := hbefore (r - 1) (by omega)
      omega
  rwa [s.indexed_toNat hnowrap]

theorem exists_firstBadRow {x y : Reg} {n : Nibble} (h : ¬ spriteFits s x y n) :
    ∃ r < n.toNat, (∀ r' < r, spriteRowFits s x y n r') ∧ ¬ spriteRowFits s x y n r := by
  classical
  have hex : ∃ r, r < n.toNat ∧ ¬ spriteRowFits s x y n r := by
    simpa only [spriteFits, not_forall, exists_prop] using h
  obtain ⟨hr, hbad⟩ := Nat.find_spec hex
  exact ⟨Nat.find hex, hr, fun r' hlt => by_contra fun hbad' => Nat.find_min hex hlt ⟨by omega, hbad'⟩, hbad⟩

theorem drw_faultsOnlyAsListed (s : State) (x y : Reg) (n : Nibble) : FaultsOnlyAsListed (.drw x y n) s := by
  by_cases hfits : spriteFits s x y n
  · obtain ⟨t, hexec, ht⟩ := exec_drw_done hfits
    exact ⟨t, hexec, .inl ht.fault⟩
  · obtain ⟨r, hr, hbefore, hbad⟩ := exists_firstBadRow hfits
    rcases Nat.lt_or_ge (s.index.toNat + r) 4096 with hread | hout
    · obtain ⟨px, hpx⟩ := exists_firstBitOutside hread hbad
      obtain ⟨u, hexec, hu⟩ := exec_drw_outside hr hbefore hread hpx
      exact .raised hexec (.drwPixel hpx.covers hpx.outside) hu.partlyWritten
    · obtain ⟨u, hexec, hu⟩ := exec_drw_unreadable hr hbefore hout
      have haddr := s.indexed_outside_of_first hout fun r' hr' => (hbefore r' hr').1
      exact .raised hexec (.drwRow x y hr haddr) hu.partlyWritten

/-! ## The instructions -/

theorem exec_faultsOnlyAsListed (i : Instr) (s : State) : FaultsOnlyAsListed i s := by
  cases i with
  | ret => exact ret_faultsOnlyAsListed s
  | call nnn => exact call_faultsOnlyAsListed s nnn
  | drw x y n => exact drw_faultsOnlyAsListed s x y n
  | skp x => exact skipOnKey_faultsOnlyAsListed (down := true) rfl .skp
  | sknp x => exact skipOnKey_faultsOnlyAsListed (down := false) rfl .sknp
  | ldB x =>
    exact (storeDigitLoop (s.reg x) s).faultsOnlyAsListed (exec_ldB_eq x s) (by decide)
      (fun _ _ => Stored.partlyWritten) fun _ hk => .ldB x hk
  | ldMemVx x =>
    exact (storeRegLoop s x).faultsOnlyAsListed (exec_ldMemVx_eq x s) (Nat.succ_pos _)
      (fun _ _ => Stored.partlyWritten) fun _ hk => .ldMemVx (Nat.le_of_lt_succ hk)
  | ldVxMem x =>
    exact (loadLoop s x).faultsOnlyAsListed (exec_ldVxMem_eq x s) (Nat.succ_pos _)
      (fun _ _ => Loaded.partlyWritten) fun _ hk => .ldVxMem (Nat.le_of_lt_succ hk)
  | seImm | sneImm | seReg | sneReg => exact ⟨_, rfl, .inl (skipIf_fault ..)⟩
  | ldVxK x =>
    cases h : s.firstKeyDown with
    | none => exact ⟨_, exec_ldVxK_of_none h x, .inl rfl⟩
    | some k => exact ⟨_, exec_ldVxK_of_some h x, .inl rfl⟩
  | _ => exact ⟨_, rfl, .inl rfl⟩

end

/-- A pixel the sprite covers has coordinates that fit in the info's two bytes. -/
theorem pixelInfo_toNat_of_covers {s : State} {x y : Reg} {n : Nibble} {px py : Nat}
    (h : spriteCovers s x y n px py = true) : (pixelInfo px py).toNat = py * 256 + px := by
  obtain ⟨-, hx, -, hy⟩ := spriteCovers_bounds h
  have hcol : spriteColumn (s.reg x) < 64 := Nat.mod_lt _ (by decide)
  have hrow : spriteRow (s.reg y) < 32 := Nat.mod_lt _ (by decide)
  rw [pixelInfo, BitVec.toNat_ofNat]
  omega

/-- Settles O21: the listed faults, one by one. -/
theorem instructionsFaultOnlyAsListed : Obligations.InstructionsFaultOnlyAsListed := by
  intro i s t _ hexec
  obtain ⟨t', hexec', h⟩ := exec_faultsOnlyAsListed i s
  obtain rfl : t' = t := (eq_execState hexec').trans (eq_execState hexec).symm
  rcases h with hsame | ⟨c, info, u, hfault, -, rfl⟩
  · exact .inl hsame
  · refine .inr ⟨rfl, rfl, ?_⟩
    cases hfault with
    | call nnn hsp => exact .inl ⟨nnn, rfl, hsp, rfl, rfl⟩
    | ret hsp => exact .inr (.inl ⟨rfl, hsp, rfl, rfl⟩)
    | ldB x hk hout => exact .inr (.inr (.inl ⟨x, _, .inl ⟨rfl, hk⟩, hout, rfl, rfl⟩))
    | ldMemVx hk hout => exact .inr (.inr (.inl ⟨_, _, .inr ⟨rfl, hk⟩, hout, rfl, rfl⟩))
    | ldVxMem hk hout => exact .inr (.inr (.inr (.inl ⟨_, _, rfl, hk, hout, rfl, rfl⟩)))
    | drwRow x y hk hout => exact .inr (.inr (.inr (.inr (.inl ⟨x, y, _, _, rfl, hk, hout, rfl, rfl⟩))))
    | drwPixel hcov hout =>
      exact .inr (.inr (.inr (.inr (.inr (.inl
        ⟨_, _, _, _, _, rfl, hcov, hout, rfl, pixelInfo_toNat_of_covers hcov⟩)))))
    | skp hkey =>
      exact .inr (.inr (.inr (.inr (.inr (.inr ⟨_, .inl rfl, hkey, rfl, zextByte_toNat _⟩)))))
    | sknp hkey =>
      exact .inr (.inr (.inr (.inr (.inr (.inr ⟨_, .inr rfl, hkey, rfl, zextByte_toNat _⟩)))))

end Sys2Proof.Machine
end

section
/-! A step of a running core (60_exceptions.md R303, R311, R312, R318): how it can end, and what a fault
leaves. -/

namespace Sys2Proof.Machine

section
variable {s t : State}

theorem step_of_fetch_raised (hs : s.Running) (h : fetch s = .raised t) : step s = .next t := by
  simp [step, hs, h]

theorem endStep_of_halted (h : s.fault.halted = true) : endStep s = s := by
  rw [endStep, if_pos h]

/-- R106: the execute stage is the instruction of the fetched word, or nothing. -/
theorem execute_cases (h : execute s = .next t) :
    (∃ i, decode s.currentOpcode = .instr i ∧ t = execState i s) ∨
      ∃ w, decode s.currentOpcode = .unrecognized w ∧ t = s := by
  cases hdec : decode s.currentOpcode with
  | instr i => exact .inl ⟨i, rfl, eq_execState ((execute_of_instr hdec).symm.trans h)⟩
  | unrecognized w =>
    exact .inr ⟨w, rfl, (Host.Outcome.next.inj ((execute_of_unrecognized hdec).symm.trans h)).symm⟩

theorem fetch_raised_eq (h : fetch s = .raised t) : ∃ info, t = takeFault .fetchOutOfRange s.pc info s := by
  rcases fetch_cases s with ⟨-, hf⟩ | ⟨-, hf⟩ | ⟨-, hf⟩ <;> rw [hf] at h
  · exact ⟨_, (Attempt.raised.inj h).symm⟩
  · exact ⟨_, (Attempt.raised.inj h).symm⟩
  · cases h

theorem fetch_done_eq (h : fetch s = .done t) : t = s.afterFetch := by
  rcases fetch_cases s with ⟨-, hf⟩ | ⟨-, hf⟩ | ⟨-, hf⟩ <;> rw [hf] at h
  · cases h
  · cases h
  · exact (Attempt.done.inj h).symm

/-- The execute stage raises a listed fault of the instruction, or leaves `FAULT` alone. -/
theorem execute_fault_cases (h : execute s = .next t) :
    t.fault = s.fault ∨ ∃ i, RaisedAsListed i s t := by
  rcases execute_cases h with ⟨i, -, rfl⟩ | ⟨w, -, rfl⟩
  · obtain ⟨t, hexec, ht⟩ := exec_faultsOnlyAsListed i s
    rw [← eq_execState hexec]
    exact ht.imp_right fun hraised => ⟨i, hraised⟩
  · exact .inl rfl

theorem RaisedAsListed.halted {i : Instr} (h : RaisedAsListed i s t) : t.fault.halted = true := by
  obtain ⟨c, info, u, -, -, rfl⟩ := h
  rfl

/-- Everything a step of a running core can end in: a fetch fault, a fault of the instruction, or the tick. -/
theorem step_cases_of_running (hs : s.Running) (h : step s = .next t) :
    (∃ info, t = takeFault .fetchOutOfRange s.pc info s) ∨
      (∃ i, RaisedAsListed i s.afterFetch t) ∨
      (t.Running ∧ ∃ u, execute s.afterFetch = .next u ∧ t = tickTimers u) := by
  rcases step_cases s with ⟨hh, -⟩ | ⟨-, u, hfetch, hstep⟩ | ⟨-, a, u, hfetch, hexec, hstep⟩
  · exact absurd (hs.symm.trans hh) Bool.false_ne_true
  · obtain rfl := Host.Outcome.next.inj (hstep.symm.trans h)
    exact .inl (fetch_raised_eq hfetch)
  · obtain rfl := Host.Outcome.next.inj (hstep.symm.trans h)
    obtain rfl := fetch_done_eq hfetch
    rcases execute_fault_cases hexec with hsame | ⟨i, hraised⟩
    · have hrun : u.Running := (congrArg FaultRecord.halted hsame).trans hs
      rw [endStep_of_running hrun]
      exact .inr (.inr ⟨hrun, u, hexec, rfl⟩)
    · rw [endStep_of_halted hraised.halted]
      exact .inr (.inl ⟨i, hraised⟩)

/-- How a step of a running core ends in a fault. -/
theorem step_halted_cases (hs : s.Running) (h : step s = .next t) (hh : t.fault.halted = true) :
    (∃ info, t = takeFault .fetchOutOfRange s.pc info s) ∨ ∃ i, RaisedAsListed i s.afterFetch t := by
  rcases step_cases_of_running hs h with hfetch | hraised | ⟨hrun, -⟩
  · exact .inl hfetch
  · exact .inr hraised
  · exact absurd (hrun.symm.trans hh) Bool.false_ne_true

/-- How a step of a running core completes. -/
theorem step_completed (hs : s.Running) (h : step s = .next t) (hrun : t.Running) :
    ∃ u, execute s.afterFetch = .next u ∧ t = tickTimers u := by
  rcases step_cases_of_running hs h with ⟨info, rfl⟩ | ⟨i, hraised⟩ | ⟨-, hdone⟩
  · cases hrun
  · exact absurd (hrun.symm.trans hraised.halted) Bool.false_ne_true
  · exact hdone

/-- The fault of an instruction is no fetch fault. -/
theorem ListedFault.cause_ne_fetchOutOfRange {i : Instr} {c : FaultCause} {info : Addr}
    (h : ListedFault s i c info) : c ≠ .fetchOutOfRange := by
  cases h <;> decide

theorem State.afterFetch_currentOpcode (s : State) : s.afterFetch.currentOpcode = s.fetchedWord := rfl

theorem State.afterFetch_dt (s : State) : s.afterFetch.dt = s.dt := rfl

theorem State.afterFetch_st (s : State) : s.afterFetch.st = s.st := rfl

theorem State.reg_afterFetch (s : State) (x : Reg) : s.afterFetch.reg x = s.reg x := rfl

theorem State.afterFetch_pc_sub (s : State) : s.afterFetch.pc - 2#16 = s.pc := BitVec.add_sub_cancel s.pc 2#16

end

/-- Settles O16: the two fetch faults, each with its info. -/
theorem fetchOutsideMemoryFaults : Obligations.FetchOutsideMemoryFaults := by
  intro s hs hpc
  rcases fetch_cases s with ⟨hout, hf⟩ | ⟨hlast, hf⟩ | ⟨hin, -⟩
  · rw [step_of_fetch_raised hs hf, if_pos hout, takeFault]
  · rw [step_of_fetch_raised hs hf, if_neg (by omega), takeFault]
  · omega

/-- Settles O9: a fetch fault records `PC`, and a fault of the instruction the advanced `PC` less 2. -/
theorem faultingStepIsReportedAndLatched : Obligations.FaultingStepIsReportedAndLatched := by
  intro s t hs hstep hh
  refine ⟨by rw [hostCall_step_of_next hstep, stepReply_of_halted hh], ?_⟩
  rcases step_halted_cases hs hstep hh with ⟨info, rfl⟩ | ⟨i, c, info, u, -, -, rfl⟩
  · rfl
  · exact s.afterFetch_pc_sub

/-- Settles O20: a fetch fault writes `FAULT` alone, and an instruction that faults has written at most
registers, pixels and memory before. -/
theorem faultLeavesPcAndTimers : Obligations.FaultLeavesPcAndTimers := by
  intro s t hs hstep hh
  rcases step_halted_cases hs hstep hh with ⟨info, rfl⟩ | ⟨i, c, info, u, hfault, hu, rfl⟩
  · exact ⟨(if_pos rfl).symm, rfl, rfl, rfl, rfl, rfl, rfl⟩
  · rw [hu.frame]
    exact ⟨(if_neg hfault.cause_ne_fetchOutOfRange).symm, rfl, rfl, rfl, rfl, rfl, rfl⟩

/-! ## The timers -/

section
variable {s t : State}

theorem execute_ldDtVx_dt {x : Reg} (hdec : decode s.currentOpcode = .instr (.ldDtVx x))
    (h : execute s = .next t) : t.dt = s.reg x := by
  rw [execute_of_instr hdec] at h
  exact Host.Outcome.next.inj h ▸ rfl

theorem execute_ldStVx_st {x : Reg} (hdec : decode s.currentOpcode = .instr (.ldStVx x))
    (h : execute s = .next t) : t.st = s.reg x := by
  rw [execute_of_instr hdec] at h
  exact Host.Outcome.next.inj h ▸ rfl

theorem execute_keeps_dt (hdec : ∀ x, decode s.currentOpcode ≠ .instr (.ldDtVx x))
    (h : execute s = .next t) : t.dt = s.dt := by
  rcases execute_cases h with ⟨i, hi, rfl⟩ | ⟨w, -, rfl⟩
  · exact (execState_within i s).dt (footprint_dt fun x hx => hdec x (hx ▸ hi))
  · rfl

theorem execute_keeps_st (hdec : ∀ x, decode s.currentOpcode ≠ .instr (.ldStVx x))
    (h : execute s = .next t) : t.st = s.st := by
  rcases execute_cases h with ⟨i, hi, rfl⟩ | ⟨w, -, rfl⟩
  · exact (execState_within i s).st (footprint_st fun x hx => hdec x (hx ▸ hi))
  · rfl

end

/-- Settles O19: a completed step ends in the tick of what the execute stage leaves in each timer, and after a
fault the timers are as O20 says. -/
theorem timersCountCompletedSteps : Obligations.TimersCountCompletedSteps := by
  intro s t hs hstep
  refine ⟨fun hh => ?_, fun hrun => ?_⟩
  · obtain ⟨-, hdt, hst, -⟩ := faultLeavesPcAndTimers s t hs hstep hh
    exact ⟨hdt, hst⟩
  · obtain ⟨u, hexec, rfl⟩ := step_completed hs hstep hrun
    rw [tickTimers_dt, tickTimers_st, tickTimer_toNat, tickTimer_toNat]
    rw [← s.afterFetch_currentOpcode, ← s.afterFetch_dt, ← s.afterFetch_st]
    constructor
    · split
      next x hdec => rw [execute_ldDtVx_dt hdec hexec, State.reg_afterFetch]
      next hdec => rw [execute_keeps_dt hdec hexec]
    · split
      next x hdec => rw [execute_ldStVx_st hdec hexec, State.reg_afterFetch]
      next hdec => rw [execute_keeps_st hdec hexec]

end Sys2Proof.Machine
end

section
/-! Reset and `load_program` (70_reset_and_hazards.md R340 to R345): the bytes each leaves in memory. -/

namespace Sys2Proof.Machine

/-! ## Consecutive bytes -/

/-- Consecutive bytes just written are read back. -/
theorem Memory.getElem?_eq_read_writeAll (m : Memory) (a : Nat) {ws : List Byte} {j : Nat}
    (hj : j < ws.length) :
    ws[j]? = some ((m.writeAll a ws).read (a + j)) := by
  rw [Memory.read_writeAll, if_pos (Nat.le_add_right a j), Nat.add_sub_cancel_left,
    List.getElem?_eq_getElem hj, Option.getD_some]

/-- Writing consecutive bytes leaves every byte before and after them. -/
theorem Memory.read_writeAll_outside (m : Memory) {a a' : Nat} {ws : List Byte}
    (h : a' < a ∨ a + ws.length ≤ a') : (m.writeAll a ws).read a' = m.read a' := by
  rw [Memory.read_writeAll]
  split
  · rw [List.getElem?_eq_none (by omega), Option.getD_none]
  · rfl

/-! ## The glyph table after a reset -/

/-- The glyph table stands in memory from 0x050 to 0x09F (R78). -/
def Memory.HoldsGlyphs (m : Memory) : Prop := ∀ k < 80, glyphTable[k]? = some (m.read (0x050 + k))

/-- Where nothing has been written, memory reads as the reset contents. -/
theorem Memory.holdsGlyphs_nil : Memory.HoldsGlyphs [] := by
  intro k hk
  have hsome : glyphTable[k]? = some glyphTable[k] := List.getElem?_eq_getElem hk
  simp [Memory.read, Memory.readWith, Memory.find, Memory.unlisted_glyphBase_add, hsome]

theorem State.holdsGlyphs_resetOp_mem (s : State) : s.resetOp.mem.HoldsGlyphs := by
  intro k hk
  rw [State.resetOp_mem]
  exact s.mem.getElem?_eq_read_writeAll 0x050 hk

theorem State.resetOp_keeps_mem (s : State) {a : Nat} (ha : a < 0x050 ∨ 0x09F < a) :
    s.resetOp.mem.read a = s.mem.read a := by
  rw [State.resetOp_mem]
  exact s.mem.read_writeAll_outside ha

/-- The model's table is the one of I1, glyph by glyph. -/
theorem glyphTable_eq_glyphsOfI1 (d : Fin 16) (r : Fin 5) :
    glyphTable[5 * d.val + r.val]? = some (glyphsOfI1[d].extractLsb' (8 * (4 - r.val)) 8) := by
  revert d r
  decide

theorem Memory.HoldsGlyphs.read_glyph {m : Memory} (hm : m.HoldsGlyphs) (d : Fin 16) (r : Fin 5) :
    m.read (0x050 + 5 * d.val + r.val) = glyphsOfI1[d].extractLsb' (8 * (4 - r.val)) 8 := by
  have hread := hm (5 * d.val + r.val) (by omega)
  rw [glyphTable_eq_glyphsOfI1, ← Nat.add_assoc] at hread
  exact (Option.some.inj hread).symm

/-! ## The values of R47 -/

/-- `reset()` gives every field of R47 but memory its value, so the glyphs are all that is left to ask. -/
theorem State.holdsResetValues_resetOp_setMem (s : State) {m : Memory} (hm : m.HoldsGlyphs) :
    (s.resetOp.setMem m).HoldsResetValues :=
  ⟨fun r => Vector.getElem_replicate r.isLt, rfl, rfl, fun k => Vector.getElem_replicate k.isLt, rfl, rfl,
    rfl, fun px py => Framebuffer.get_off px py, hm.read_glyph, rfl⟩

theorem State.setMem_self (s : State) : s.setMem s.mem = s := rfl

theorem State.resetOp_holdsResetValues (s : State) : s.resetOp.HoldsResetValues := by
  rw [← s.resetOp.setMem_self]
  exact s.holdsResetValues_resetOp_setMem s.holdsGlyphs_resetOp_mem

/-- The state the machine starts from is one that `reset()` leaves, with nothing listed in memory. -/
theorem State.reset_holdsResetValues : State.reset.HoldsResetValues :=
  State.reset.holdsResetValues_resetOp_setMem Memory.holdsGlyphs_nil

/-- Settles O5: both reset states hold the values of R47, and the glyph table is all of memory that `reset()`
writes. -/
theorem resetSetsAndKeeps : Obligations.ResetSetsAndKeeps :=
  ⟨rfl, State.reset_holdsResetValues, fun s =>
    ⟨rfl, s.resetOp_holdsResetValues, fun _ ha => s.resetOp_keeps_mem ha, rfl, rfl⟩⟩

/-! ## `load_program` -/

section
variable {s : State} {image : List Byte}

theorem State.loadProgram_of_le (h : image.length ≤ 3584) :
    s.loadProgram image = .ok (s.setMem (s.mem.writeAll 0x200 image)) :=
  if_pos (decide_eq_true h)

theorem State.loadProgram_of_gt (h : 3584 < image.length) :
    s.loadProgram image = .tooLarge (BitVec.ofNat 16 image.length) :=
  if_neg fun hfits => Nat.not_le.2 h (of_decide_eq_true hfits)

theorem hostCall_loadProgram_of_ok {t : State} (h : s.loadProgram image = .ok t) :
    hostCall (.loadProgram image) s = (.ok, t) := by
  rw [hostCall, h]

theorem hostCall_loadProgram_of_tooLarge {info : Addr} (h : s.loadProgram image = .tooLarge info) :
    hostCall (.loadProgram image) s = (.loadTooLarge info, s) := by
  rw [hostCall, h]

end

/-- Settles O7: an image that fits is written from 0x200 on, and one that does not is not looked at. -/
theorem loadProgramCopiesOrRejects : Obligations.LoadProgramCopiesOrRejects := by
  refine fun s image => ⟨fun hfits => ?_, fun hlarge => ?_⟩
  · have hload := s.loadProgram_of_le hfits
    exact ⟨_, hload, hostCall_loadProgram_of_ok hload, rfl,
      fun j hj => s.mem.getElem?_eq_read_writeAll 0x200 hj,
      fun a ha => s.mem.read_writeAll_outside ha⟩
  · have hload := s.loadProgram_of_gt hlarge
    exact ⟨hload, hostCall_loadProgram_of_tooLarge hload⟩

end Sys2Proof.Machine
end

section
/-! Nested calls (70_reset_and_hazards.md R355): how many a stack holds. -/

namespace Sys2Proof.Machine

theorem execAll_cons_of_next {i : Instr} {s t : State} (h : exec i s = .next t) (is : List Instr) :
    execAll (i :: is) s = execAll is t := by
  rw [execAll, h]

theorem execAll_append_of_next {is : List Instr} {s t : State} (h : execAll is s = .next t) (js : List Instr) :
    execAll (is ++ js) s = execAll js t := by
  induction is generalizing s with
  | nil => rw [List.nil_append, Host.Outcome.next.inj h]
  | cons i is ih =>
    cases hexec : exec i s with
    | next u =>
      rw [execAll_cons_of_next hexec] at h
      rw [List.cons_append, execAll_cons_of_next hexec, ih h]
    | fault r => rw [execAll, hexec] at h; cases h
    | refused r => rw [execAll, hexec] at h; cases h

/-- A call that finds a free entry of the stack takes it. -/
theorem exec_call_takes_entry {s : State} (hs : s.Running) (hroom : s.sp.val < 16) (nnn : Imm12) :
    ∃ t, exec (.call nnn) s = .next t ∧ t.sp.val = s.sp.val + 1 ∧ t.Running :=
  ⟨_, exec_call_of_lt hroom nnn, rfl, hs⟩

/-- Calls that the free entries of the stack hold all succeed, and each takes one entry. -/
theorem execAll_calls_of_room (targets : List Imm12) {s : State} (hs : s.Running)
    (hroom : s.sp.val + targets.length ≤ 16) :
    ∃ t, execAll (targets.map .call) s = .next t ∧ t.sp.val = s.sp.val + targets.length ∧ t.Running := by
  induction targets generalizing s with
  | nil => exact ⟨s, rfl, rfl, hs⟩
  | cons nnn targets ih =>
    rw [List.length_cons] at hroom ⊢
    obtain ⟨u, hcall, hsp, hu⟩ := exec_call_takes_entry hs (by omega) nnn
    obtain ⟨t, hrest, hsp', ht⟩ := ih hu (by omega)
    exact ⟨t, (execAll_cons_of_next hcall _).trans hrest, by omega, ht⟩

/-- Settles O26: the first sixteen calls fill the stack, and the one left finds it full. -/
theorem sixteenCallsFillTheStack : Obligations.SixteenCallsFillTheStack := by
  intro targets s hs hempty
  refine ⟨fun hlen => ?_, fun hlen => ?_⟩
  · simpa [hempty] using execAll_calls_of_room targets hs (by omega)
  · obtain ⟨first, last, rfl⟩ := (List.eq_nil_or_concat' targets).resolve_left (by rintro rfl; cases hlen)
    have hfirst : first.length = 16 := by simpa using hlen
    obtain ⟨t, hcalls, hsp, -⟩ := execAll_calls_of_room first hs (by omega)
    have hfull : t.sp.val = 16 := by omega
    refine ⟨takeFault .stackOverflow (t.pc - 2#16) 16#16 t, ?_, hfull, rfl, rfl⟩
    rw [List.map_append, execAll_append_of_next hcalls]
    exact execAll_cons_of_next (exec_call_of_full hfull last) []

end Sys2Proof.Machine
end
